-- ==== Sys2Proof/Word.lean ====
section
/-! DEFINITION. The machine's word types (spec/00_scope.md rules R9, R12). -/

namespace Sys2Proof

/-- A data byte: the CPU moves bytes only (rules R9, R100). -/
abbrev Byte := BitVec 8

/-- A 16-bit CPU address or program counter (rules R9, R33); also a PPU bus address before its decoder masks it to
14 bits (rule R107). -/
abbrev Word := BitVec 16

/-- The scroll and address registers `v` and `t` (rule R54). -/
abbrev VramAddr := BitVec 15

/-- A palette number and a colour, the entry type of the background queue (rules R65, R446). -/
abbrev Nibble := BitVec 4

end Sys2Proof
end

