-- ==== Sys2Proof/Syntax.lean ====
section
/-! DEFINITION. The instructions: one constructor per mnemonic of spec/opcode_table.json, with an operand that names the
addressing mode of the row (rules R141, R143, R171). -/

namespace Sys2Proof

/-- The eight addressing modes that compute an effective address for data (rule R143), with their operand bytes
assembled (little-endian, rules R100, R142). -/
inductive MemOperand where
  /-- ZP, rule R154. -/
  | zp (b1 : Byte)
  /-- ZPX, rule R155. -/
  | zpx (b1 : Byte)
  /-- ZPY, rule R156. -/
  | zpy (b1 : Byte)
  /-- ABS, rule R160. -/
  | abs (addr : Word)
  /-- ABX, rule R161. -/
  | abx (base : Word)
  /-- ABY, rule R162. -/
  | aby (base : Word)
  /-- IZX, rule R158. -/
  | izx (b1 : Byte)
  /-- IZY, rule R159. -/
  | izy (b1 : Byte)
  deriving DecidableEq, Repr

/-- The operand of a class R instruction: IMM (rule R153) or a memory mode (rule R150). -/
inductive ReadOperand where
  | imm (b1 : Byte)
  | mem (m : MemOperand)
  deriving DecidableEq, Repr

/-- The operand of a shift or rotate: ACC (rule R152) or a memory mode (rule R260). -/
inductive ShiftOperand where
  | acc
  | mem (m : MemOperand)
  deriving DecidableEq, Repr

/-- The operand of JMP: ABS (rule R160) or IND (rule R157). -/
inductive JumpOperand where
  | abs (target : Word)
  | ind (ptr : Word)
  deriving DecidableEq, Repr

/-- The instruction set (rule R171) with the pseudo-instruction UNKNOWN (rules R172, R335), which carries the opcode
byte it was decoded from. -/
inductive Instr where
  -- loads, stores, transfers: spec/40_load_store_transfer.md
  | lda (o : ReadOperand)
  | ldx (o : ReadOperand)
  | ldy (o : ReadOperand)
  | sta (m : MemOperand)
  | stx (m : MemOperand)
  | sty (m : MemOperand)
  | tax
  | tay
  | txa
  | tya
  | tsx
  | txs
  -- arithmetic, logic, compare, bit test: spec/41_arithmetic_logic.md
  | adc (o : ReadOperand)
  | sbc (o : ReadOperand)
  | and (o : ReadOperand)
  | ora (o : ReadOperand)
  | eor (o : ReadOperand)
  | cmp (o : ReadOperand)
  | cpx (o : ReadOperand)
  | cpy (o : ReadOperand)
  | bit (m : MemOperand)
  -- shifts, rotates, increments, decrements: spec/42_shift_incdec.md
  | asl (o : ShiftOperand)
  | lsr (o : ShiftOperand)
  | rol (o : ShiftOperand)
  | ror (o : ShiftOperand)
  | inc (m : MemOperand)
  | dec (m : MemOperand)
  | inx
  | iny
  | dex
  | dey
  -- branches, jumps, calls: spec/43_control_transfer.md
  | bcc (rel : Byte)
  | bcs (rel : Byte)
  | beq (rel : Byte)
  | bne (rel : Byte)
  | bmi (rel : Byte)
  | bpl (rel : Byte)
  | bvc (rel : Byte)
  | bvs (rel : Byte)
  | jmp (o : JumpOperand)
  | jsr (target : Word)
  | rts
  -- stack, flags, system: spec/44_stack_flags_system.md
  | pha
  | php
  | pla
  | plp
  | clc
  | sec
  | cli
  | sei
  | cld
  | sed
  | clv
  | nop
  | brk
  | rti
  | unknown (op : Byte)
  deriving DecidableEq, Repr

end Sys2Proof
end

