-- ==== Sys2Proof/Decode.lean ====
section
/-! DEFINITION. The decoder (rules R140 to R142, R170 to R173) and, after it, the encoder written from the same table. -/

namespace Sys2Proof

/-- What an opcode byte selects: the format of rule R142 (one, two or three bytes) with the instruction its operand
bytes complete. A three-byte format receives its operand as the word `b2 :: b1`. -/
inductive Shape where
  | one (i : Instr)
  | two (f : Byte → Instr)
  | three (f : Word → Instr)

/-- Length in bytes (rule R142). -/
def Shape.length : Shape → Nat
  | .one _ => 1
  | .two _ => 2
  | .three _ => 3

/-- The 256-entry opcode map of rule R170; every byte it does not list is UNKNOWN (rules R172, R173). -/
def opcodeMap (op : Byte) : Shape :=
  match op.toNat with
  | 0x00 => .one .brk
  | 0x01 => .two fun b1 => .ora (.mem (.izx b1))
  | 0x05 => .two fun b1 => .ora (.mem (.zp b1))
  | 0x06 => .two fun b1 => .asl (.mem (.zp b1))
  | 0x08 => .one .php
  | 0x09 => .two fun b1 => .ora (.imm b1)
  | 0x0A => .one (.asl .acc)
  | 0x0D => .three fun w => .ora (.mem (.abs w))
  | 0x0E => .three fun w => .asl (.mem (.abs w))
  | 0x10 => .two fun b1 => .bpl b1
  | 0x11 => .two fun b1 => .ora (.mem (.izy b1))
  | 0x15 => .two fun b1 => .ora (.mem (.zpx b1))
  | 0x16 => .two fun b1 => .asl (.mem (.zpx b1))
  | 0x18 => .one .clc
  | 0x19 => .three fun w => .ora (.mem (.aby w))
  | 0x1D => .three fun w => .ora (.mem (.abx w))
  | 0x1E => .three fun w => .asl (.mem (.abx w))
  | 0x20 => .three fun w => .jsr w
  | 0x21 => .two fun b1 => .and (.mem (.izx b1))
  | 0x24 => .two fun b1 => .bit (.zp b1)
  | 0x25 => .two fun b1 => .and (.mem (.zp b1))
  | 0x26 => .two fun b1 => .rol (.mem (.zp b1))
  | 0x28 => .one .plp
  | 0x29 => .two fun b1 => .and (.imm b1)
  | 0x2A => .one (.rol .acc)
  | 0x2C => .three fun w => .bit (.abs w)
  | 0x2D => .three fun w => .and (.mem (.abs w))
  | 0x2E => .three fun w => .rol (.mem (.abs w))
  | 0x30 => .two fun b1 => .bmi b1
  | 0x31 => .two fun b1 => .and (.mem (.izy b1))
  | 0x35 => .two fun b1 => .and (.mem (.zpx b1))
  | 0x36 => .two fun b1 => .rol (.mem (.zpx b1))
  | 0x38 => .one .sec
  | 0x39 => .three fun w => .and (.mem (.aby w))
  | 0x3D => .three fun w => .and (.mem (.abx w))
  | 0x3E => .three fun w => .rol (.mem (.abx w))
  | 0x40 => .one .rti
  | 0x41 => .two fun b1 => .eor (.mem (.izx b1))
  | 0x45 => .two fun b1 => .eor (.mem (.zp b1))
  | 0x46 => .two fun b1 => .lsr (.mem (.zp b1))
  | 0x48 => .one .pha
  | 0x49 => .two fun b1 => .eor (.imm b1)
  | 0x4A => .one (.lsr .acc)
  | 0x4C => .three fun w => .jmp (.abs w)
  | 0x4D => .three fun w => .eor (.mem (.abs w))
  | 0x4E => .three fun w => .lsr (.mem (.abs w))
  | 0x50 => .two fun b1 => .bvc b1
  | 0x51 => .two fun b1 => .eor (.mem (.izy b1))
  | 0x55 => .two fun b1 => .eor (.mem (.zpx b1))
  | 0x56 => .two fun b1 => .lsr (.mem (.zpx b1))
  | 0x58 => .one .cli
  | 0x59 => .three fun w => .eor (.mem (.aby w))
  | 0x5D => .three fun w => .eor (.mem (.abx w))
  | 0x5E => .three fun w => .lsr (.mem (.abx w))
  | 0x60 => .one .rts
  | 0x61 => .two fun b1 => .adc (.mem (.izx b1))
  | 0x65 => .two fun b1 => .adc (.mem (.zp b1))
  | 0x66 => .two fun b1 => .ror (.mem (.zp b1))
  | 0x68 => .one .pla
  | 0x69 => .two fun b1 => .adc (.imm b1)
  | 0x6A => .one (.ror .acc)
  | 0x6C => .three fun w => .jmp (.ind w)
  | 0x6D => .three fun w => .adc (.mem (.abs w))
  | 0x6E => .three fun w => .ror (.mem (.abs w))
  | 0x70 => .two fun b1 => .bvs b1
  | 0x71 => .two fun b1 => .adc (.mem (.izy b1))
  | 0x75 => .two fun b1 => .adc (.mem (.zpx b1))
  | 0x76 => .two fun b1 => .ror (.mem (.zpx b1))
  | 0x78 => .one .sei
  | 0x79 => .three fun w => .adc (.mem (.aby w))
  | 0x7D => .three fun w => .adc (.mem (.abx w))
  | 0x7E => .three fun w => .ror (.mem (.abx w))
  | 0x81 => .two fun b1 => .sta (.izx b1)
  | 0x84 => .two fun b1 => .sty (.zp b1)
  | 0x85 => .two fun b1 => .sta (.zp b1)
  | 0x86 => .two fun b1 => .stx (.zp b1)
  | 0x88 => .one .dey
  | 0x8A => .one .txa
  | 0x8C => .three fun w => .sty (.abs w)
  | 0x8D => .three fun w => .sta (.abs w)
  | 0x8E => .three fun w => .stx (.abs w)
  | 0x90 => .two fun b1 => .bcc b1
  | 0x91 => .two fun b1 => .sta (.izy b1)
  | 0x94 => .two fun b1 => .sty (.zpx b1)
  | 0x95 => .two fun b1 => .sta (.zpx b1)
  | 0x96 => .two fun b1 => .stx (.zpy b1)
  | 0x98 => .one .tya
  | 0x99 => .three fun w => .sta (.aby w)
  | 0x9A => .one .txs
  | 0x9D => .three fun w => .sta (.abx w)
  | 0xA0 => .two fun b1 => .ldy (.imm b1)
  | 0xA1 => .two fun b1 => .lda (.mem (.izx b1))
  | 0xA2 => .two fun b1 => .ldx (.imm b1)
  | 0xA4 => .two fun b1 => .ldy (.mem (.zp b1))
  | 0xA5 => .two fun b1 => .lda (.mem (.zp b1))
  | 0xA6 => .two fun b1 => .ldx (.mem (.zp b1))
  | 0xA8 => .one .tay
  | 0xA9 => .two fun b1 => .lda (.imm b1)
  | 0xAA => .one .tax
  | 0xAC => .three fun w => .ldy (.mem (.abs w))
  | 0xAD => .three fun w => .lda (.mem (.abs w))
  | 0xAE => .three fun w => .ldx (.mem (.abs w))
  | 0xB0 => .two fun b1 => .bcs b1
  | 0xB1 => .two fun b1 => .lda (.mem (.izy b1))
  | 0xB4 => .two fun b1 => .ldy (.mem (.zpx b1))
  | 0xB5 => .two fun b1 => .lda (.mem (.zpx b1))
  | 0xB6 => .two fun b1 => .ldx (.mem (.zpy b1))
  | 0xB8 => .one .clv
  | 0xB9 => .three fun w => .lda (.mem (.aby w))
  | 0xBA => .one .tsx
  | 0xBC => .three fun w => .ldy (.mem (.abx w))
  | 0xBD => .three fun w => .lda (.mem (.abx w))
  | 0xBE => .three fun w => .ldx (.mem (.aby w))
  | 0xC0 => .two fun b1 => .cpy (.imm b1)
  | 0xC1 => .two fun b1 => .cmp (.mem (.izx b1))
  | 0xC4 => .two fun b1 => .cpy (.mem (.zp b1))
  | 0xC5 => .two fun b1 => .cmp (.mem (.zp b1))
  | 0xC6 => .two fun b1 => .dec (.zp b1)
  | 0xC8 => .one .iny
  | 0xC9 => .two fun b1 => .cmp (.imm b1)
  | 0xCA => .one .dex
  | 0xCC => .three fun w => .cpy (.mem (.abs w))
  | 0xCD => .three fun w => .cmp (.mem (.abs w))
  | 0xCE => .three fun w => .dec (.abs w)
  | 0xD0 => .two fun b1 => .bne b1
  | 0xD1 => .two fun b1 => .cmp (.mem (.izy b1))
  | 0xD5 => .two fun b1 => .cmp (.mem (.zpx b1))
  | 0xD6 => .two fun b1 => .dec (.zpx b1)
  | 0xD8 => .one .cld
  | 0xD9 => .three fun w => .cmp (.mem (.aby w))
  | 0xDD => .three fun w => .cmp (.mem (.abx w))
  | 0xDE => .three fun w => .dec (.abx w)
  | 0xE0 => .two fun b1 => .cpx (.imm b1)
  | 0xE1 => .two fun b1 => .sbc (.mem (.izx b1))
  | 0xE4 => .two fun b1 => .cpx (.mem (.zp b1))
  | 0xE5 => .two fun b1 => .sbc (.mem (.zp b1))
  | 0xE6 => .two fun b1 => .inc (.zp b1)
  | 0xE8 => .one .inx
  | 0xE9 => .two fun b1 => .sbc (.imm b1)
  | 0xEA => .one .nop
  | 0xEC => .three fun w => .cpx (.mem (.abs w))
  | 0xED => .three fun w => .sbc (.mem (.abs w))
  | 0xEE => .three fun w => .inc (.abs w)
  | 0xF0 => .two fun b1 => .beq b1
  | 0xF1 => .two fun b1 => .sbc (.mem (.izy b1))
  | 0xF5 => .two fun b1 => .sbc (.mem (.zpx b1))
  | 0xF6 => .two fun b1 => .inc (.zpx b1)
  | 0xF8 => .one .sed
  | 0xF9 => .three fun w => .sbc (.mem (.aby w))
  | 0xFD => .three fun w => .sbc (.mem (.abx w))
  | 0xFE => .three fun w => .inc (.abx w)
  | _ => .one (.unknown op)

/-- Why a byte string is no instruction: it ends too soon. No opcode byte is refused (rule R173). -/
inductive DecodeError where
  /-- There is no opcode byte. -/
  | noOpcode
  /-- The opcode `op` has more operand bytes than the string holds. -/
  | truncated (op : Byte)
  deriving DecidableEq, Repr

/-- The first instruction of a byte string, with the bytes after it (rule R140). -/
def decode : List Byte → Except DecodeError (Instr × List Byte)
  | [] => .error .noOpcode
  | op :: rest =>
    match opcodeMap op, rest with
    | .one i, _ => .ok (i, rest)
    | .two f, b1 :: rest' => .ok (f b1, rest')
    | .three f, b1 :: b2 :: rest' => .ok (f (b2 ++ b1), rest')
    | .two _, [] => .error (.truncated op)
    | .three _, [] => .error (.truncated op)
    | .three _, [_] => .error (.truncated op)

/-- The three bytes an opcode-table word of `nbits` bits lays down, lowest address first; the bits above `nbits`
are 0. -/
def tableWordBytes (nbits w : Nat) : List Byte :=
  let v := w % 2 ^ nbits
  [BitVec.ofNat 8 v, BitVec.ofNat 8 (v / 256), BitVec.ofNat 8 (v / 65536)]

/-- The instruction the decoder reads from an opcode-table word. -/
def decodeTableWord (nbits w : Nat) : Option Instr :=
  match decode (tableWordBytes nbits w) with
  | .ok (i, _) => some i
  | .error _ => none

/-! The encoder, by mode and operation (rule R141). -/

/-- The operand bytes of a memory mode (rule R142), low byte first. -/
def MemOperand.bytes : MemOperand → List Byte
  | .zp b | .zpx b | .zpy b | .izx b | .izy b => [b]
  | .abs w | .abx w | .aby w => [w.setWidth 8, (w >>> 8).setWidth 8]

/-- The operand bytes of a read operand. -/
def ReadOperand.bytes : ReadOperand → List Byte
  | .imm b => [b]
  | .mem m => m.bytes

/-- The operand bytes of a shift operand. -/
def ShiftOperand.bytes : ShiftOperand → List Byte
  | .acc => []
  | .mem m => m.bytes

/-- The operand bytes of an instruction (rule R142). -/
def Instr.operandBytes : Instr → List Byte
  | .lda o | .ldx o | .ldy o | .adc o | .sbc o | .and o | .ora o | .eor o | .cmp o | .cpx o | .cpy o => o.bytes
  | .sta m | .stx m | .sty m | .bit m | .inc m | .dec m => m.bytes
  | .asl o | .lsr o | .rol o | .ror o => o.bytes
  | .bcc r | .bcs r | .beq r | .bne r | .bmi r | .bpl r | .bvc r | .bvs r => [r]
  | .jmp (.abs w) | .jmp (.ind w) | .jsr w => [w.setWidth 8, (w >>> 8).setWidth 8]
  | .tax | .tay | .txa | .tya | .tsx | .txs | .inx | .iny | .dex | .dey | .rts => []
  | .pha | .php | .pla | .plp | .clc | .sec | .cli | .sei | .cld | .sed | .clv | .nop | .brk | .rti => []
  | .unknown _ => []

/-- The opcode of a memory mode of the eight-mode group with base `g` (rule R230); STA has base 0x81 (rule R204). -/
def MemOperand.groupOpcode (g : Byte) : MemOperand → Option Byte
  | .izx _ => some g
  | .zp _ => some (g + 0x04)
  | .abs _ => some (g + 0x0C)
  | .izy _ => some (g + 0x10)
  | .zpx _ => some (g + 0x14)
  | .aby _ => some (g + 0x18)
  | .abx _ => some (g + 0x1C)
  | .zpy _ => none

/-- The opcode of a read operand of the eight-mode group with base `g` (rule R230). -/
def ReadOperand.groupOpcode (g : Byte) : ReadOperand → Option Byte
  | .imm _ => some (g + 0x08)
  | .mem m => m.groupOpcode g

/-- The opcode of a read-modify-write memory mode, given the opcode `z` of its ZP form (rules R261 to R266). -/
def MemOperand.rmwOpcode (z : Byte) : MemOperand → Option Byte
  | .zp _ => some z
  | .abs _ => some (z + 0x08)
  | .zpx _ => some (z + 0x10)
  | .abx _ => some (z + 0x18)
  | .zpy _ | .aby _ | .izx _ | .izy _ => none

/-- The opcode of a shift operand, given the opcode `z` of its ZP form (rules R261 to R264). -/
def ShiftOperand.opcode (z : Byte) : ShiftOperand → Option Byte
  | .acc => some (z + 0x04)
  | .mem m => m.rmwOpcode z

/-- The opcode byte of an instruction (rule R171); none for a mode the mnemonic does not have. -/
def Instr.opcode : Instr → Option Byte
  | .lda o => o.groupOpcode 0xA1
  | .ldx (.imm _) => some 0xA2
  | .ldx (.mem (.zp _)) => some 0xA6
  | .ldx (.mem (.zpy _)) => some 0xB6
  | .ldx (.mem (.abs _)) => some 0xAE
  | .ldx (.mem (.aby _)) => some 0xBE
  | .ldx (.mem _) => none
  | .ldy (.imm _) => some 0xA0
  | .ldy (.mem (.zp _)) => some 0xA4
  | .ldy (.mem (.zpx _)) => some 0xB4
  | .ldy (.mem (.abs _)) => some 0xAC
  | .ldy (.mem (.abx _)) => some 0xBC
  | .ldy (.mem _) => none
  | .sta m => m.groupOpcode 0x81
  | .stx (.zp _) => some 0x86
  | .stx (.zpy _) => some 0x96
  | .stx (.abs _) => some 0x8E
  | .stx _ => none
  | .sty (.zp _) => some 0x84
  | .sty (.zpx _) => some 0x94
  | .sty (.abs _) => some 0x8C
  | .sty _ => none
  | .tax => some 0xAA
  | .tay => some 0xA8
  | .txa => some 0x8A
  | .tya => some 0x98
  | .tsx => some 0xBA
  | .txs => some 0x9A
  | .adc o => o.groupOpcode 0x61
  | .sbc o => o.groupOpcode 0xE1
  | .and o => o.groupOpcode 0x21
  | .ora o => o.groupOpcode 0x01
  | .eor o => o.groupOpcode 0x41
  | .cmp o => o.groupOpcode 0xC1
  | .cpx (.imm _) => some 0xE0
  | .cpx (.mem (.zp _)) => some 0xE4
  | .cpx (.mem (.abs _)) => some 0xEC
  | .cpx (.mem _) => none
  | .cpy (.imm _) => some 0xC0
  | .cpy (.mem (.zp _)) => some 0xC4
  | .cpy (.mem (.abs _)) => some 0xCC
  | .cpy (.mem _) => none
  | .bit (.zp _) => some 0x24
  | .bit (.abs _) => some 0x2C
  | .bit _ => none
  | .asl o => o.opcode 0x06
  | .lsr o => o.opcode 0x46
  | .rol o => o.opcode 0x26
  | .ror o => o.opcode 0x66
  | .inc m => m.rmwOpcode 0xE6
  | .dec m => m.rmwOpcode 0xC6
  | .inx => some 0xE8
  | .iny => some 0xC8
  | .dex => some 0xCA
  | .dey => some 0x88
  | .bcc _ => some 0x90
  | .bcs _ => some 0xB0
  | .beq _ => some 0xF0
  | .bne _ => some 0xD0
  | .bmi _ => some 0x30
  | .bpl _ => some 0x10
  | .bvc _ => some 0x50
  | .bvs _ => some 0x70
  | .jmp (.abs _) => some 0x4C
  | .jmp (.ind _) => some 0x6C
  | .jsr _ => some 0x20
  | .rts => some 0x60
  | .pha => some 0x48
  | .php => some 0x08
  | .pla => some 0x68
  | .plp => some 0x28
  | .clc => some 0x18
  | .sec => some 0x38
  | .cli => some 0x58
  | .sei => some 0x78
  | .cld => some 0xD8
  | .sed => some 0xF8
  | .clv => some 0xB8
  | .nop => some 0xEA
  | .brk => some 0x00
  | .rti => some 0x40
  | .unknown op => some op

/-- The bytes of a well-formed instruction at rising addresses (rules R140, R142); empty for a term that has no
encoding. -/
def encode (i : Instr) : List Byte :=
  match i.opcode with
  | some op => op :: i.operandBytes
  | none => []

end Sys2Proof
end

