-- ==== Sys2Proof/Machine/Bits.lean ====
section
/-! DEFINITION. Byte order, extension and bit helpers (rules R12, R13, R100). -/

namespace Sys2Proof.Machine

/-- `lo8` (rule R13). -/
def lo8 (w : Word) : Byte := w.setWidth 8

/-- `hi8` (rule R13). -/
def hi8 (w : Word) : Byte := (w >>> 8).setWidth 8

/-- `hi :: lo` (rules R12, R13). -/
def mkWord (hi lo : Byte) : Word := hi ++ lo

/-- `zext_16` (rule R13). -/
def zext16 (b : Byte) : Word := b.setWidth 16

/-- `sext_16` (rule R13). -/
def sext16 (b : Byte) : Word := b.signExtend 16

/-- Bit `i` of a byte (rule R12). -/
def bitOf (b : Byte) (i : Nat) : Bool := b.getLsbD i

/-- A flag as the one-bit number that stands in a byte or in a sum. -/
def bit1 (b : Bool) : BitVec 1 := BitVec.ofBool b

end Sys2Proof.Machine
end

