-- ==== Sys2Proof/Config.lean ====
section
/-! DEFINITION. What the implementation or the world outside fixes: the open parameters of rule R10 and the free values. -/

namespace Sys2Proof

/-- IO_READ_VALUE (rules R10, R97, decision D16, item U2): what an absent port or a write-only PPU port answers to a
read. The spec asks that nothing be proved from its value, so it has no body: a FREE VALUE, log entry 4 (safe). -/
opaque Config.ioReadValue : Word → Byte

/-- The answer of the input source to its `k`-th `readInput()` since reset (rules R8, R96, item U13). The source is
outside the block (rule R4), so it has no body: a FREE VALUE, log entry 5 (safe). -/
opaque Config.inputAnswer : Nat → Bool

/-- The nametable mirroring mode, a launch parameter (rules R8, R111). -/
inductive Mirroring where
  | vertical
  | horizontal
  deriving DecidableEq, Repr

/-- ROM_WRITE_POLICY (rules R10, R86, decision D17). -/
inductive RomWritePolicy where
  | store
  | discard
  deriving DecidableEq, Repr

/-- The two open parameters of rule R10 that are plain data, fixed for the machine. They are carried in the state so
that a statement about every state holds for every setting of them; no step changes them. -/
structure Params where
  /-- JMP_INDIRECT_PAGE_WRAP (rule R157, decision D7). -/
  jmpIndirectPageWrap : Bool
  /-- ROM_WRITE_POLICY (rule R86, decision D17). -/
  romWritePolicy : RomWritePolicy
  deriving DecidableEq, Repr

/-- The defaults of rule R10. -/
def Params.default : Params :=
  { jmpIndirectPageWrap := true, romWritePolicy := .store }

end Sys2Proof
end

