-- ==== Sys2Proof/Machine/Cells.lean ====
section
/-! DEFINITION. Arrays held as sparse lists of (index, value) pairs in one canonical form: indexes strictly rising and no
entry equal to the fill value, which is what an unlisted index reads as. -/

namespace Sys2Proof.Machine

/-- A sparse array. -/
abbrev Cells (α : Type) := List (Nat × α)

/-- Byte memory: the form of the CPU array (rule R50), the PPU array (rule R60) and the two OAMs (rules R61, R62). -/
abbrev Memory := List Host.Cell

/-- The value at index `k`: the first entry for it, else the fill value. -/
def Cells.read {α : Type} (fill : α) : Cells α → Nat → α
  | [], _ => fill
  | (j, x) :: rest, k => if j = k then x else Cells.read fill rest k

/-- The array without an entry for index `k`. -/
def Cells.erase {α : Type} : Cells α → Nat → Cells α
  | [], _ => []
  | (j, x) :: rest, k => if j = k then Cells.erase rest k else (j, x) :: Cells.erase rest k

/-- The array with the entry `(k, x)` put before the first larger index. -/
def Cells.insert {α : Type} : Cells α → Nat → α → Cells α
  | [], k, x => [(k, x)]
  | (j, y) :: rest, k, x => if k < j then (k, x) :: (j, y) :: rest else (j, y) :: Cells.insert rest k x

/-- The array with index `k` holding `x`. Writing the fill value removes the entry. -/
def Cells.write {α : Type} [DecidableEq α] (fill : α) (m : Cells α) (k : Nat) (x : α) : Cells α :=
  if x = fill then Cells.erase m k else Cells.insert (Cells.erase m k) k x

/-- The canonical form from index `lo` on, below `size`. -/
def Cells.wfFrom {α : Type} [DecidableEq α] (fill : α) (size : Nat) : Nat → Cells α → Bool
  | _, [] => true
  | lo, (j, x) :: rest => decide (lo ≤ j) && decide (j < size) && decide (x ≠ fill) && Cells.wfFrom fill size (j + 1) rest

/-- The canonical form of an array of `size` cells. -/
def Cells.wf {α : Type} [DecidableEq α] (fill : α) (size : Nat) (m : Cells α) : Bool :=
  Cells.wfFrom fill size 0 m

/-- What an unlisted byte of the CPU array, the PPU array or primary OAM reads as: 0x00. DESIGN CHOICE, log entry 1
(unsafe): the spec gives those arrays as launch images (rules R8, R70); its own programs are images of zeros with the
listed bytes (spec/95_test_vectors.md section 3). -/
def memoryFill : Byte := 0x00

/-- What an unlisted byte of secondary OAM reads as: 0xFF, its value at reset (rule R70) and after the clear window
(rule R476). -/
def secOamFill : Byte := 0xFF

/-- The byte of memory at an index. -/
def Memory.read (m : Memory) (k : Nat) : Byte :=
  Cells.read memoryFill m k

/-- Memory with the byte at index `k` written. -/
def Memory.write (m : Memory) (k : Nat) (x : Byte) : Memory :=
  Cells.write memoryFill m k x

/-- The canonical form of a memory of `size` bytes. -/
def Memory.wf (size : Nat) (m : Memory) : Bool :=
  Cells.wf memoryFill size m

end Sys2Proof.Machine
end

