-- ==== Sys2Proof/Machine/State.lean ====
section
/-! DEFINITION. The machine's state as plain data, what a step can stop with, and the state after reset
(spec/10_state.md). -/

namespace Sys2Proof.Machine

/-- The seven CPU flags (rules R30, R34). -/
structure Flags where
  /-- carry, status bit 0 -/
  c : Bool
  /-- zero, status bit 1 -/
  z : Bool
  /-- interrupt-disable, status bit 2; masks nothing (rule R42) -/
  i : Bool
  /-- decimal, status bit 3; storage only (rule R40) -/
  d : Bool
  /-- the live break flag, status bit 4 (rule R41) -/
  b : Bool
  /-- overflow, status bit 6 -/
  v : Bool
  /-- negative, status bit 7 -/
  n : Bool
  deriving DecidableEq, Repr

/-- One entry of the sprite pixel buffer (rule R63). -/
structure SpritePixel where
  color : BitVec 2
  palette : BitVec 2
  sprite0 : Bool
  priority : Bool
  deriving DecidableEq, Repr

/-- An unwritten entry of the sprite pixel buffer (rules R63, R490). -/
def SpritePixel.unwritten : SpritePixel :=
  { color := 0, palette := 0, sprite0 := false, priority := false }

/-- The modes of the sprite evaluator (rules R64, R478). -/
inductive EvalMode where
  | y
  | rest
  | ovf
  | done
  deriving DecidableEq, Repr

/-- The sprite evaluator's working state (rule R64). -/
structure SpriteEval where
  /-- `ev_n`, primary sprite index -/
  n : BitVec 6
  /-- `ev_m`, byte index -/
  m : BitVec 2
  /-- `ev_count`, slots filled on this line, 0 to 8 -/
  count : Nat
  /-- `ev_mode` -/
  mode : EvalMode
  /-- `ev_latch`, the byte read at the odd cycle -/
  latch : Byte
  /-- `ev_sprite0` -/
  sprite0 : Bool
  /-- `fetch_count`, 0 to 8 -/
  fetchCount : Nat
  /-- `fetch_sprite0` -/
  fetchSprite0 : Bool
  deriving DecidableEq, Repr

/-- The picture unit's state (rules R51 to R66). -/
structure Ppu where
  /-- PPUCTRL (rule R51) -/
  ctrl : Byte
  /-- PPUMASK (rule R52) -/
  mask : Byte
  /-- PPUSTATUS (rule R53) -/
  status : Byte
  /-- current VRAM address (rules R54, R55) -/
  v : VramAddr
  /-- temporary VRAM address (rules R54, R55) -/
  t : VramAddr
  /-- `x`, fine-x scroll (rule R54) -/
  fineX : BitVec 3
  /-- write toggle (rule R54) -/
  w : Bool
  /-- OAMADDR (rule R56) -/
  oamAddr : Byte
  /-- PPUDATA read buffer (rule R56) -/
  readBuffer : Byte
  /-- dot within the line, 0 to 340: the next dot to be performed (rule R57) -/
  cycle : Nat
  /-- line, 0 to 261 (rule R57) -/
  scanline : Nat
  /-- frame parity (rule R57) -/
  evenFrame : Bool
  /-- `nmi_suppress` (rule R58) -/
  nmiSuppress : Bool
  /-- `nmi_eligible` (rule R58) -/
  nmiEligible : Bool
  /-- nametable mirroring, fixed for the run (rules R8, R111) -/
  mirroring : Mirroring
  /-- `ppu_mem` (rule R60) -/
  mem : Memory
  /-- primary OAM, 256 bytes (rule R61) -/
  oam : Memory
  /-- secondary OAM, 32 bytes (rule R62); an unlisted byte is `secOamFill` -/
  secOam : Memory
  /-- sprite pixel buffer, 256 entries (rule R63); an unlisted entry is unwritten -/
  spriteBuf : Cells SpritePixel
  /-- sprite evaluator (rule R64) -/
  eval : SpriteEval
  /-- background pixel queue, front first (rule R65) -/
  bgQueue : List Nibble
  /-- background fetch latches (rule R66) -/
  ntByte : Byte
  atBits : BitVec 2
  patLo : Byte
  patHi : Byte
  deriving DecidableEq, Repr

/-- The events on the block's interfaces (rules R11, R612). -/
inductive Event where
  /-- one `readInput()` call and its answer (rule R96) -/
  | readInput (answer : Bool)
  | startPolling
  | stopPolling
  /-- one pixel (rule R527) -/
  | drawPixel (x y : Nat) (paletteByte maskByte : Byte)
  /-- the frame strobe (rule R409) -/
  | updateScreen
  | clearBuffer
  | resetRead
  deriving DecidableEq, Repr

/-- The whole block. -/
structure State where
  /-- accumulator (rule R31) -/
  a : Byte
  /-- index X (rule R31) -/
  x : Byte
  /-- index Y (rule R31) -/
  y : Byte
  /-- stack pointer (rule R32) -/
  sp : Byte
  /-- program counter (rule R33) -/
  pc : Word
  /-- the seven flags (rule R34) -/
  flags : Flags
  /-- CPU cycles of all completed steps (rule R47) -/
  totalCycle : Nat
  /-- CPU cycles of the current step, and between steps of the last one (rules R13, R95, R610) -/
  cycles : Nat
  /-- `nmi_serviced` (rule R48) -/
  nmiServiced : Bool
  /-- `cpu_mem` (rule R50) -/
  cpuMem : Memory
  /-- the picture unit -/
  ppu : Ppu
  /-- the open parameters (rule R10), fixed for the run -/
  params : Params
  /-- how many answers of the input source have been taken (the model's own, log entry 5) -/
  inputReads : Nat
  /-- the interface events of the last step, newest first (the model's own, log entry 6) -/
  events : List Event
  deriving DecidableEq, Repr

/-- The block raises no synchronous exception and nothing in it stops with a fault (rule R550; section 2 of
spec/93_implementation_defined.md): there is no fault. -/
inductive Fault where
  deriving DecidableEq, Repr

/-- The cases to which the spec gives no meaning and which it has a model refuse. -/
inductive Refusal where
  /-- Raised by an arm of `exec` for an instruction without a meaning. Safe: the run stops. No arm uses it. -/
  | notModelled (mnemonic : String)
  /-- Raised by the instruction fetch when the opcode or an operand byte lies in 0x2000..0x4017 (rule R106, item U8).
  Safe: the run stops where the spec gives no meaning. -/
  | fetchFromPort
  /-- Raised by a write to 0x4014 whose source page is 0x20..0x40 (rule R94, item U7).
  Safe: the run stops where the spec gives no meaning. -/
  | dmaFromPort
  deriving DecidableEq, Repr

/-- The launch parameters (rule R8) with the two choices rule R10 leaves open and the contents of primary OAM, which
rule R70 leaves to the model. -/
structure Launch where
  cpuImage : Memory
  ppuImage : Memory
  mirroring : Mirroring
  oam : Memory
  params : Params
  deriving DecidableEq, Repr

/-- The evaluator after reset (rule R70). -/
def SpriteEval.reset : SpriteEval :=
  { n := 0, m := 0, count := 0, mode := .done, latch := 0, sprite0 := false, fetchCount := 0, fetchSprite0 := false }

/-- The picture unit after reset (rule R70). -/
def Ppu.launch (l : Launch) : Ppu :=
  { ctrl := 0, mask := 0, status := 0, v := 0, t := 0, fineX := 0, w := false, oamAddr := 0, readBuffer := 0,
    cycle := 0, scanline := 0, evenFrame := true, nmiSuppress := false, nmiEligible := false,
    mirroring := l.mirroring, mem := l.ppuImage, oam := l.oam, secOam := [], spriteBuf := [],
    eval := SpriteEval.reset, bgQueue := [], ntByte := 0, atBits := 0, patLo := 0, patHi := 0 }

/-- The state after reset for given launch parameters (rules R70, R600): the only use of reset (rule R601). -/
def State.launch (l : Launch) : State :=
  { a := 0, x := 0, y := 0, sp := 0xFD,
    pc := l.cpuImage.read 0xFFFD ++ l.cpuImage.read 0xFFFC,
    flags := { c := false, z := false, i := true, d := false, b := false, v := false, n := false },
    totalCycle := 0, cycles := 0, nmiServiced := false, cpuMem := l.cpuImage, ppu := Ppu.launch l,
    params := l.params, inputReads := 0, events := [] }

/-- The launch parameters of `State.reset`: images and OAM of zeros, vertical mirroring, the defaults of rule R10.
DESIGN CHOICE, log entries 1, 2 and 3 (unsafe). -/
def Launch.blank : Launch :=
  { cpuImage := [], ppuImage := [], mirroring := .vertical, oam := [], params := Params.default }

/-- The machine right after reset (rules R70, R600). -/
def State.reset : State :=
  State.launch Launch.blank

end Sys2Proof.Machine
end

