-- ==== Sys2Proof/Machine/PpuBus.lean ====
section
/-! DEFINITION. The PPU's address decoder and its memory accesses (rules R107 to R112), and the fields of the PPU's
registers (rules R51, R52, R55). -/

namespace Sys2Proof.Machine

/-- The cell of a nametable address (rule R111). -/
def ntCell (mirroring : Mirroring) (a : Word) : Word :=
  match mirroring with
  | .vertical => a &&& 0x37FF
  | .horizontal => a &&& 0x3BFF

/-- The cell of a palette address (rule R112). -/
def palCell (a : Word) : Word :=
  let i := a &&& 0x001F
  let j := if i = 0x10 ∨ i = 0x14 ∨ i = 0x18 ∨ i = 0x1C then i - 0x10 else i
  0x3F00 + j

/-- `PpuCell` (rules R107, R110). -/
def ppuCell (mirroring : Mirroring) (addr : Word) : Word :=
  let a := addr &&& 0x3FFF
  if a < 0x2000 then a
  else if a < 0x3000 then ntCell mirroring a
  else if a < 0x3F00 then ntCell mirroring (a - 0x1000)
  else palCell a

/-- `PpuRead` (rule R108): no side effect. -/
def Ppu.read (p : Ppu) (addr : Word) : Byte :=
  p.mem.read (ppuCell p.mirroring addr).toNat

/-- `PpuWrite` (rule R109): every region stores, all eight bits. -/
def Ppu.write (p : Ppu) (addr : Word) (val : Byte) : Ppu :=
  { p with mem := p.mem.write (ppuCell p.mirroring addr).toNat val }

/-- `ctrl.vram_inc` (rule R51). -/
def Ppu.vramInc (p : Ppu) : Bool := bitOf p.ctrl 2

/-- `ctrl.sprite_table` (rule R51). -/
def Ppu.spriteTable (p : Ppu) : Bool := bitOf p.ctrl 3

/-- `ctrl.bg_table` (rule R51). -/
def Ppu.bgTable (p : Ppu) : Bool := bitOf p.ctrl 4

/-- `ctrl.sprite_height` (rule R51): 16 rows when set. -/
def Ppu.tallSprites (p : Ppu) : Bool := bitOf p.ctrl 5

/-- `ctrl.nmi_enable` (rule R51). -/
def Ppu.nmiEnable (p : Ppu) : Bool := bitOf p.ctrl 7

/-- `mask.bg_left` (rule R52). -/
def Ppu.bgLeft (p : Ppu) : Bool := bitOf p.mask 1

/-- `mask.sp_left` (rule R52). -/
def Ppu.spLeft (p : Ppu) : Bool := bitOf p.mask 2

/-- `mask.show_bg` (rule R52). -/
def Ppu.showBg (p : Ppu) : Bool := bitOf p.mask 3

/-- `mask.show_sp` (rule R52). -/
def Ppu.showSp (p : Ppu) : Bool := bitOf p.mask 4

/-- `status.vblank` (rule R53). -/
def Ppu.vblank (p : Ppu) : Bool := bitOf p.status 7

/-- `rendering_enabled()` (rule R403). -/
def Ppu.renderingEnabled (p : Ppu) : Bool := p.showBg || p.showSp

/-- A visible line (rule R16). -/
def Ppu.onVisibleLine (p : Ppu) : Bool := decide (p.scanline ≤ 239)

/-- A fetch line: visible or pre-render (rule R400). -/
def Ppu.onFetchLine (p : Ppu) : Bool := decide (p.scanline ≤ 239) || decide (p.scanline = 261)

/-- Coarse X, bits 4:0 of `v` or `t` (rule R55). -/
def coarseX (v : VramAddr) : BitVec 5 := v.extractLsb' 0 5

/-- Coarse Y, bits 9:5 (rule R55). -/
def coarseY (v : VramAddr) : BitVec 5 := v.extractLsb' 5 5

/-- Fine Y, bits 14:12 (rule R55). -/
def fineY (v : VramAddr) : BitVec 3 := v.extractLsb' 12 3

/-- The slice write `v[lo+n-1 : lo] <- x` (rule R12). -/
def setField {n : Nat} (v : VramAddr) (lo : Nat) (x : BitVec n) : VramAddr :=
  (v &&& ~~~(((BitVec.allOnes n).setWidth 15) <<< lo)) ||| ((x.setWidth 15) <<< lo)

end Sys2Proof.Machine
end

