-- ==== Sys2Proof/Machine/Setters.lean ====
section
/-! DEFINITION. One named update for each field of the state that a step may change. -/

namespace Sys2Proof.Machine

def State.setA (s : State) (val : Byte) : State :=
  { s with a := val }

def State.setX (s : State) (val : Byte) : State :=
  { s with x := val }

def State.setY (s : State) (val : Byte) : State :=
  { s with y := val }

def State.setSp (s : State) (val : Byte) : State :=
  { s with sp := val }

def State.setPc (s : State) (val : Word) : State :=
  { s with pc := val }

def State.setFlags (s : State) (val : Flags) : State :=
  { s with flags := val }

def State.setTotalCycle (s : State) (val : Nat) : State :=
  { s with totalCycle := val }

def State.setCycles (s : State) (val : Nat) : State :=
  { s with cycles := val }

def State.setNmiServiced (s : State) (val : Bool) : State :=
  { s with nmiServiced := val }

def State.setCpuMem (s : State) (val : Memory) : State :=
  { s with cpuMem := val }

def State.setPpu (s : State) (val : Ppu) : State :=
  { s with ppu := val }

def State.setInputReads (s : State) (val : Nat) : State :=
  { s with inputReads := val }

def State.setEvents (s : State) (val : List Event) : State :=
  { s with events := val }

end Sys2Proof.Machine
end

