-- ==== Sys2Proof/Machine/PpuPorts.lean ====
section
/-! DEFINITION. The eight PPU ports the CPU reaches at 0x2000..0x3FFF: what a read returns and what an access changes
(spec/45_ppu_ports.md). -/

namespace Sys2Proof.Machine

/-- PPUCTRL write (rule R362). -/
def ctrlWrite (val : Byte) (p : Ppu) : Ppu :=
  { p with ctrl := val, t := setField p.t 10 (val.setWidth 2) }

/-- PPUMASK write (rule R363). -/
def maskWrite (val : Byte) (p : Ppu) : Ppu :=
  { p with mask := val }

/-- PPUSTATUS read (rule R364): the byte as it stood. -/
def statusRead (s : State) : Byte × State :=
  let p := s.ppu
  let atEdge := decide (p.scanline = 240) && decide (p.cycle = 340)
  (p.status,
    { s with
      nmiServiced := false
      ppu := { p with status := p.status &&& 0x7F, nmiEligible := false, w := false,
                      nmiSuppress := p.nmiSuppress || atEdge } })

/-- OAMADDR write (rule R365). -/
def oamAddrWrite (val : Byte) (p : Ppu) : Ppu :=
  { p with oamAddr := val }

/-- OAMDATA write (rule R366). -/
def oamDataWrite (val : Byte) (p : Ppu) : Ppu :=
  { p with oam := p.oam.write p.oamAddr.toNat val, oamAddr := p.oamAddr + 1 }

/-- OAMDATA read (rule R367): 0xFF in the clear window of a fetch line; nothing changes. -/
def oamDataRead (p : Ppu) : Byte :=
  if p.onFetchLine ∧ 1 ≤ p.cycle ∧ p.cycle ≤ 64 then 0xFF else p.oam.read p.oamAddr.toNat

/-- PPUSCROLL write, steered by `w` (rule R368). -/
def scrollWrite (val : Byte) (p : Ppu) : Ppu :=
  if p.w then
    { p with t := setField (setField p.t 12 (val.setWidth 3)) 5 (val.extractLsb' 3 5), w := false }
  else
    { p with t := setField p.t 0 (val.extractLsb' 3 5), fineX := val.setWidth 3, w := true }

/-- PPUADDR write, steered by `w` (rules R369, R370). -/
def addrWrite (val : Byte) (p : Ppu) : Ppu :=
  if p.w then
    let t := setField p.t 0 val
    { p with t := t, v := t, w := false }
  else
    { p with t := setField (setField p.t 8 (val.setWidth 6)) 14 (0 : BitVec 1), w := true }

/-- The increment of `v` after a PPUDATA access (rule R372). -/
def Ppu.nextV (p : Ppu) : VramAddr :=
  p.v + (if p.vramInc then 32 else 1)

/-- PPUDATA read (rule R371): delayed by the read buffer below the palette, immediate in it. -/
def dataRead (p : Ppu) : Byte × Ppu :=
  let a : Word := p.v.setWidth 16 &&& 0x3FFF
  if a < 0x3F00 then
    (p.readBuffer, { p with readBuffer := p.read a, v := p.nextV })
  else
    (p.read a, { p with readBuffer := p.read (a - 0x1000), v := p.nextV })

/-- PPUDATA write (rule R373). -/
def dataWrite (val : Byte) (p : Ppu) : Ppu :=
  { p.write (p.v.setWidth 16 &&& 0x3FFF) val with v := p.nextV }

/-- A CPU read of port `port` through address `addr` (rule R361). The five write-only ports answer
`Config.ioReadValue addr` with no side effect. -/
def ppuPortRead (port : BitVec 3) (addr : Word) (s : State) : Byte × State :=
  if port = 2 then statusRead s
  else if port = 4 then (oamDataRead s.ppu, s)
  else if port = 7 then
    let r := dataRead s.ppu
    (r.1, s.setPpu r.2)
  else (Config.ioReadValue addr, s)

/-- A CPU write to port `port` (rule R361); a write to PPUSTATUS is discarded (rule R93). -/
def ppuPortWrite (port : BitVec 3) (val : Byte) (p : Ppu) : Ppu :=
  if port = 0 then ctrlWrite val p
  else if port = 1 then maskWrite val p
  else if port = 2 then p
  else if port = 3 then oamAddrWrite val p
  else if port = 4 then oamDataWrite val p
  else if port = 5 then scrollWrite val p
  else if port = 6 then addrWrite val p
  else dataWrite val p

end Sys2Proof.Machine
end

