-- ==== Sys2Proof/Machine/Ops.lean ====
section
/-! DEFINITION. The named operations over memory and registers: the CPU bus (spec/20_memory.md), the stack
(rules R43 to R46), taking an exception and returning from one (spec/60_exceptions.md), the end of an instruction. -/

namespace Sys2Proof.Machine

/-- What an instruction, or a bus write, ends with. -/
abbrev Result := Host.Outcome State Fault Refusal

/-- Go on from a next state; a stop stays a stop. -/
def andThen (r : Result) (k : State → Result) : Result :=
  match r with
  | .next s => k s
  | .fault e => .fault e
  | .refused e => .refused e

/-! ### The CPU address decoder -/

/-- What a CPU address decodes to (rule R80). -/
inductive BusTarget where
  /-- internal RAM, by cell (rule R83) -/
  | ram (cell : Nat)
  /-- a PPU port (rule R84) -/
  | ppuPort (port : BitVec 3)
  /-- the OAM-DMA trigger 0x4014 -/
  | oamDma
  /-- the controller port 0x4016 -/
  | controller
  /-- an absent port of 0x4000..0x4017 (rule R97) -/
  | absentPort
  /-- general RAM/ROM, by cell (rule R85) -/
  | flat (cell : Nat)
  deriving DecidableEq, Repr

/-- The decoder of rule R80. -/
def busTarget (addr : Word) : BusTarget :=
  if addr < 0x2000 then .ram (addr &&& 0x07FF).toNat
  else if addr < 0x4000 then .ppuPort (addr.setWidth 3)
  else if addr = 0x4014 then .oamDma
  else if addr = 0x4016 then .controller
  else if addr < 0x4018 then .absentPort
  else .flat addr.toNat

/-- The address is one of the ports 0x2000..0x4017 (rules R80, R106). -/
def isPort (addr : Word) : Bool :=
  decide (0x2000 ≤ addr) && decide (addr ≤ 0x4017)

/-- The byte of memory behind an address, with no side effect: what `memRead` answers outside the ports (rules R83,
R85); a port answers as an absent one, and no rule of the model asks it. -/
def peek (s : State) (addr : Word) : Byte :=
  match busTarget addr with
  | .ram cell => s.cpuMem.read cell
  | .flat cell => s.cpuMem.read cell
  | .ppuPort _ => Config.ioReadValue addr
  | .oamDma => Config.ioReadValue addr
  | .controller => Config.ioReadValue addr
  | .absentPort => Config.ioReadValue addr

/-- `MemRead(addr, 2)` outside the ports: low byte first (rules R13, R100). -/
def peek16 (s : State) (addr : Word) : Word :=
  mkWord (peek s (addr + 1)) (peek s addr)

/-- A read of the controller port (rule R96): one answer of the input source, 0x01 or 0x00. -/
def controllerRead (s : State) : Byte × State :=
  let answer := Config.inputAnswer s.inputReads
  (if answer then 0x01 else 0x00,
    { s with inputReads := s.inputReads + 1, events := .readInput answer :: s.events })

/-- A write of the controller port (rule R96). -/
def controllerWrite (val : Byte) (s : State) : State :=
  s.setEvents ((if bitOf val 0 then .startPolling else .stopPolling) :: s.events)

/-- `MemRead(addr, 1)` with its side effects (rules R80, R81). -/
def memRead (addr : Word) (s : State) : Byte × State :=
  match busTarget addr with
  | .ram cell => (s.cpuMem.read cell, s)
  | .ppuPort port => ppuPortRead port addr s
  | .oamDma => (Config.ioReadValue addr, s)
  | .controller => controllerRead s
  | .absentPort => (Config.ioReadValue addr, s)
  | .flat cell => (s.cpuMem.read cell, s)

/-- The OAM after a DMA from page `page`, bytes `0..n-1` copied in ascending order (rule R94). -/
def oamCopy (s : State) (page : Byte) : Nat → Memory
  | 0 => s.ppu.oam
  | n + 1 => (oamCopy s page n).write n (peek s (mkWord page (BitVec.ofNat 8 n)))

/-- A write to 0x4014 (rules R94, R95): copies a page into OAM and adds 513 or 514 cycles by the parity of
`total_cycle`. A source page in 0x20..0x40 is refused (item U7). -/
def oamDma (page : Byte) (s : State) : Result :=
  if 0x20 ≤ page ∧ page ≤ 0x40 then .refused .dmaFromPort
  else
    .next { s with
      ppu := { s.ppu with oam := oamCopy s page 256 }
      cycles := s.cycles + (if s.totalCycle % 2 = 0 then 513 else 514) }

/-- A write to general RAM/ROM (rule R86). -/
def flatWrite (cell : Nat) (val : Byte) (s : State) : State :=
  if s.params.romWritePolicy = .discard ∧ 0x8000 ≤ cell then s
  else s.setCpuMem (s.cpuMem.write cell val)

/-- `MemWrite(addr, 1, val)` with its side effects (rules R80, R82). -/
def memWrite (addr : Word) (val : Byte) (s : State) : Result :=
  match busTarget addr with
  | .ram cell => .next (s.setCpuMem (s.cpuMem.write cell val))
  | .ppuPort port => .next (s.setPpu (ppuPortWrite port val s.ppu))
  | .oamDma => oamDma val s
  | .controller => .next (controllerWrite val s)
  | .absentPort => .next s
  | .flat cell => .next (flatWrite cell val s)

/-! ### The stack -/

/-- The stack address `0x0100 + SP` (rule R32), always in internal RAM. -/
def stackAddr (sp : Byte) : Word := mkWord 0x01 sp

/-- `Push8` (rules R43, R46). The stack page is internal RAM, so the write is a plain one (rule R83). -/
def push8 (val : Byte) (s : State) : State :=
  { s with cpuMem := s.cpuMem.write (stackAddr s.sp).toNat val, sp := s.sp - 1 }

/-- `Pull8` (rules R44, R46). -/
def pull8 (s : State) : Byte × State :=
  let sp := s.sp + 1
  (peek s (stackAddr sp), s.setSp sp)

/-- `Push16` (rule R45): high byte, then low byte. -/
def push16 (w : Word) (s : State) : State :=
  push8 (lo8 w) (push8 (hi8 w) s)

/-- `Pull16` (rule R45): low byte, then high byte. -/
def pull16 (s : State) : Word × State :=
  let lo := pull8 s
  let hi := pull8 lo.2
  (mkWord hi.1 lo.1, hi.2)

/-! ### The status byte -/

/-- `Status()` (rules R35, R36). -/
def statusByte (f : Flags) : Byte :=
  bit1 f.n ++ bit1 f.v ++ (1 : BitVec 1) ++ bit1 f.b ++ bit1 f.d ++ bit1 f.i ++ bit1 f.z ++ bit1 f.c

/-- `Status(1)` (rule R36). -/
def statusByteBrk (f : Flags) : Byte :=
  statusByte f ||| 0x10

/-- `LoadStatus` (rule R37): bits 4 and 5 are ignored, the live `B` stays. -/
def loadStatus (val : Byte) (f : Flags) : Flags :=
  { c := bitOf val 0, z := bitOf val 1, i := bitOf val 2, d := bitOf val 3, b := f.b, v := bitOf val 6,
    n := bitOf val 7 }

/-! ### Taking an exception and returning from one -/

/-- Exception entry, shared by BRK (rule R333) and the NMI (rule R556): push the return address and the status byte,
set `I`, load `PC` from the vector. -/
def enterInterrupt (ret : Word) (status : Byte) (vector : Word) (s : State) : State :=
  let t := push8 status (push16 ret s)
  { t with flags := { t.flags with i := true }, pc := peek16 t vector }

/-- Return from an exception (rule R334): pull the status byte, then `PC`. -/
def returnFromInterrupt (s : State) : State :=
  let st := pull8 s
  let t := st.2.setFlags (loadStatus st.1 st.2.flags)
  let ret := pull16 t
  ret.2.setPc ret.1

/-! ### The end of an instruction -/

/-- `cycles += n` (rule R13). -/
def addCycles (n : Nat) (s : State) : State :=
  s.setCycles (s.cycles + n)

/-- The automatic advance of `PC` by the instruction's length, with its cycles (rules R33, R610). -/
def retire (length cycles : Nat) (s : State) : State :=
  { s with pc := s.pc + BitVec.ofNat 16 length, cycles := s.cycles + cycles }

/-- The end of an instruction that sets `PC` itself (rule R33). -/
def retireAt (target : Word) (cycles : Nat) (s : State) : State :=
  { s with pc := target, cycles := s.cycles + cycles }

end Sys2Proof.Machine
end

