-- ==== Sys2Proof/Machine/Background.lean ====
section
/-! DEFINITION. The background tile fetch pipeline (spec/47_ppu_background.md). -/

namespace Sys2Proof.Machine

/-- The nametable address of a fetch (rule R443). -/
def ntAddr (v : VramAddr) : Word :=
  0x2000 ||| (v.setWidth 16 &&& 0x0FFF)

/-- The attribute address of a fetch (rule R443). -/
def attrAddr (v : VramAddr) : Word :=
  let w : Word := v.setWidth 16
  0x23C0 ||| (w &&& 0x0C00) ||| ((w >>> 4) &&& 0x38) ||| ((w >>> 2) &&& 0x07)

/-- `AttrShift` (rule R444): 0, 2, 4 or 6. -/
def attrShift (v : VramAddr) : Nat :=
  (((v >>> 4) &&& 4) ||| (v &&& 2)).toNat

/-- `PatternAddr` (rule R445). -/
def patternAddr (bgTable : Bool) (nt : Byte) (v : VramAddr) : Word :=
  (if bgTable then 0x1000 else 0x0000) ||| (nt.setWidth 16 <<< 4) ||| (fineY v).setWidth 16

/-- The eight values of a fetch in push order, most significant bit first (rules R443, R446). -/
def tilePixels (atBits : BitVec 2) (lo hi : Byte) : List Nibble :=
  [7, 6, 5, 4, 3, 2, 1, 0].map fun i => atBits ++ bit1 (bitOf hi i) ++ bit1 (bitOf lo i)

/-- `CoarseXIncrement` (rule R449). -/
def coarseXIncrement (v : VramAddr) : VramAddr :=
  if coarseX v = 31 then setField v 0 (0 : BitVec 5) ^^^ 0x0400
  else setField v 0 (coarseX v + 1)

/-- One tile fetch, whole inside a dot (rule R443); only the increment is gated by rendering (rule R404). -/
def tileFetch (p : Ppu) : Ppu :=
  let nt := p.read (ntAddr p.v)
  let atByte := p.read (attrAddr p.v)
  let atBits : BitVec 2 := (atByte >>> attrShift p.v).setWidth 2
  let addr := patternAddr p.bgTable nt p.v
  let lo := p.read addr
  let hi := p.read (addr + 8)
  { p with
    ntByte := nt
    atBits := atBits
    patLo := lo
    patHi := hi
    bgQueue := p.bgQueue ++ tilePixels atBits lo hi
    v := if p.renderingEnabled then coarseXIncrement p.v else p.v }

/-- The fetch cycles of a fetch line (rules R440, R441): 8, 16, .., 256 and 328, 336. -/
def isTileFetchCycle (c : Nat) : Bool :=
  decide (c % 8 = 0) && (decide (8 ≤ c ∧ c ≤ 256) || decide (328 ≤ c ∧ c ≤ 336))

/-- The background fetcher's work at the current dot (rules R400, R441). -/
def backgroundDot (p : Ppu) : Ppu :=
  if p.onFetchLine && isTileFetchCycle p.cycle then tileFetch p else p

/-- The fine-X discard at cycle 1 of a visible line (rule R442). -/
def fineXDiscard (p : Ppu) : Ppu :=
  if p.onVisibleLine ∧ p.cycle = 1 then { p with bgQueue := p.bgQueue.drop p.fineX.toNat } else p

end Sys2Proof.Machine
end

