-- ==== Sys2Proof/Machine/Sprites.lean ====
section
/-! DEFINITION. The OAM sprite evaluator and the sprite fetch (spec/48_ppu_sprites.md). -/

namespace Sys2Proof.Machine

/-- Write one byte of secondary OAM (rule R62). -/
def secOamWrite (k : Nat) (val : Byte) (p : Ppu) : Ppu :=
  { p with secOam := Cells.write secOamFill p.secOam k val }

/-- Read one byte of secondary OAM (rule R62). -/
def Ppu.secOamRead (p : Ppu) (k : Nat) : Byte :=
  Cells.read secOamFill p.secOam k

/-- The entry of the sprite pixel buffer for a column (rule R63). -/
def Ppu.spriteAt (p : Ppu) (col : Nat) : SpritePixel :=
  Cells.read SpritePixel.unwritten p.spriteBuf col

/-- The clear window (rule R476): one byte at each even cycle. -/
def secOamClear (p : Ppu) : Ppu :=
  if p.cycle % 2 = 0 then secOamWrite (p.cycle / 2 - 1) 0xFF p else p

/-- Sprite rows: 16 or 8 (rule R481). -/
def Ppu.spriteHeight (p : Ppu) : Nat :=
  if p.tallSprites then 16 else 8

/-- `InRange` (rule R481), on unbounded integers. -/
def Ppu.inRange (p : Ppu) (y : Byte) : Bool :=
  decide (y.toNat ≤ p.scanline) && decide (p.scanline < y.toNat + p.spriteHeight)

/-- The start of an evaluation at cycle 65 (rule R477). -/
def evalStart (e : SpriteEval) : SpriteEval :=
  { e with n := 0, m := 0, count := 0, sprite0 := false, mode := .y }

/-- `NextSprite` (rule R478). -/
def nextSprite (e : SpriteEval) : SpriteEval :=
  let n := e.n + 1
  { e with
    n := n
    mode := if n = 0 then .done else if e.count = 8 then .ovf else .y }

/-- The read of an odd evaluation cycle (rules R478, R479). -/
def evalRead (p : Ppu) : Ppu :=
  { p with eval := { p.eval with latch := p.oam.read (4 * p.eval.n.toNat + p.eval.m.toNat) } }

/-- The action of an even evaluation cycle (rules R478, R482, R483, R487, R488). -/
def evalAct (p : Ppu) : Ppu :=
  let e := p.eval
  match e.mode with
  | .y =>
    if p.inRange e.latch then
      { secOamWrite (4 * e.count) e.latch p with
        eval := { e with sprite0 := e.sprite0 || decide (e.n = 0), m := 1, mode := .rest } }
    else { p with eval := nextSprite e }
  | .rest =>
    let q := secOamWrite (4 * e.count + e.m.toNat) e.latch p
    if e.m < 3 then { q with eval := { e with m := e.m + 1 } }
    else { q with eval := nextSprite { e with m := 0, count := e.count + 1 } }
  | .ovf =>
    if p.inRange e.latch then
      { p with status := p.status ||| 0x20, eval := { e with mode := .done } }
    else
      { p with
        eval := { e with m := e.m + 1, n := e.n + 1, mode := if e.n + 1 = 0 then .done else .ovf } }
  | .done => p

/-- One evaluation dot, cycles 65 to 256 (rules R477, R478). -/
def evalDot (p : Ppu) : Ppu :=
  let q := if p.cycle = 65 then { p with eval := evalStart p.eval } else p
  if p.cycle % 2 = 1 then evalRead q else evalAct q

/-- Cycle 257: latch the result and clear the buffer (rule R490). -/
def latchSprites (p : Ppu) : Ppu :=
  { p with
    eval := { p.eval with fetchCount := p.eval.count, fetchSprite0 := p.eval.sprite0 }
    spriteBuf := [] }

/-- The row of a sprite's pattern shown on the next line (rule R495): `(scanline - y) mod h`, reversed by a vertical
flip. -/
def Ppu.spriteRow (p : Ppu) (y attr : Byte) : Nat :=
  let h := p.spriteHeight
  let row := (((p.scanline : Int) - (y.toNat : Int)) % (h : Int)).toNat
  if bitOf attr 7 then h - 1 - row else row

/-- The pattern address of a sprite row (rule R495). -/
def Ppu.spriteAddr (p : Ppu) (tile : Byte) (row : Nat) : Word :=
  if p.tallSprites then
    (if bitOf tile 0 then 0x1000 else 0x0000) |||
      BitVec.ofNat 16 (((tile &&& 0xFE).toNat + row / 8) * 16) ||| BitVec.ofNat 16 (row % 8)
  else
    (if p.spriteTable then 0x1000 else 0x0000) ||| (tile.setWidth 16 <<< 4) ||| BitVec.ofNat 16 row

/-- One pixel of a sprite row put into the buffer: only an opaque pixel, only inside the line, only into an unwritten
column (rule R495). -/
def putSpritePixel (pix : SpritePixel) (col : Nat) (buf : Cells SpritePixel) : Cells SpritePixel :=
  if col ≤ 255 ∧ pix.color ≠ 0 ∧ (Cells.read SpritePixel.unwritten buf col).color = 0 then
    Cells.write SpritePixel.unwritten buf col pix
  else buf

/-- The colour of pixel `j` of a row, leftmost first, reversed by a horizontal flip (rule R495). -/
def spriteColor (flip : Bool) (lo hi : Byte) (j : Nat) : BitVec 2 :=
  let b := if flip then j else 7 - j
  bit1 (bitOf hi b) ++ bit1 (bitOf lo b)

/-- The fetch of slot `k` (rules R491, R495, R497); a slot past the count is skipped. -/
def fetchSlot (k : Nat) (p : Ppu) : Ppu :=
  if k < p.eval.fetchCount then
    let y := p.secOamRead (4 * k)
    let tile := p.secOamRead (4 * k + 1)
    let attr := p.secOamRead (4 * k + 2)
    let xpos := p.secOamRead (4 * k + 3)
    let addr := p.spriteAddr tile (p.spriteRow y attr)
    let lo := p.read addr
    let hi := p.read (addr + 8)
    let pixel := fun j : Nat =>
      ({ color := spriteColor (bitOf attr 6) lo hi j, palette := attr.setWidth 2,
         sprite0 := decide (k = 0) && p.eval.fetchSprite0, priority := bitOf attr 5 } : SpritePixel)
    { p with
      spriteBuf := [0, 1, 2, 3, 4, 5, 6, 7].foldl
        (fun buf j => putSpritePixel (pixel j) (xpos.toNat + j) buf) p.spriteBuf }
  else p

/-- The sprite unit's work at the current dot (rules R470, R491). -/
def spriteDot (p : Ppu) : Ppu :=
  let c := p.cycle
  if !p.onFetchLine then p
  else if 1 ≤ c ∧ c ≤ 64 then secOamClear p
  else if 65 ≤ c ∧ c ≤ 256 then evalDot p
  else if c = 257 then latchSprites p
  else if 264 ≤ c ∧ c ≤ 320 ∧ c % 8 = 0 then fetchSlot ((c - 264) / 8) p
  else p

end Sys2Proof.Machine
end

