-- ==== Sys2Proof/Machine/Compositor.lean ====
section
/-! DEFINITION. The pixel compositor and palette mux (spec/49_ppu_compositor.md). -/

namespace Sys2Proof.Machine

/-- The background value after the layer enable and the left-column clip (rules R520, R522, R523). -/
def Ppu.bgValue (p : Ppu) (col : Nat) (bg : Nibble) : Nibble :=
  if !p.showBg then 0 else if col < 8 ∧ p.bgLeft = false then 0 else bg

/-- Whether the sprite pixel counts as opaque after the layer enable and the left-column clip (rules R520, R522,
R523). -/
def Ppu.spriteOpaque (p : Ppu) (col : Nat) (e : SpritePixel) : Bool :=
  decide (e.color ≠ 0) && p.showSp && !(decide (col < 8) && !p.spLeft)

/-- The palette address of the background value (rule R521). -/
def bgPaletteAddr (bg : Nibble) : Word :=
  0x3F00 ||| bg.setWidth 16

/-- The palette address of a sprite pixel (rule R521). -/
def spritePaletteAddr (e : SpritePixel) : Word :=
  0x3F10 ||| (e.palette.setWidth 16 <<< 2) ||| e.color.setWidth 16

/-- The priority table (rules R520, R524), from the values after clipping and enables. -/
def paletteAddr (bg : Nibble) (spOpaque : Bool) (e : SpritePixel) : Word :=
  if bg = 0 then
    if spOpaque then spritePaletteAddr e else 0x3F00
  else if spOpaque then
    if e.priority then bgPaletteAddr bg else spritePaletteAddr e
  else bgPaletteAddr bg

/-- Sprite-0 hit at this pixel (rule R525). -/
def sprite0Hit (bg : Nibble) (spOpaque : Bool) (e : SpritePixel) : Bool :=
  decide (bg ≠ 0) && spOpaque && e.sprite0

/-- One pixel at column `col` (rules R520, R526, R527): pop the queue (rules R450, R451), mix, read the palette, emit. -/
def composePixel (col : Nat) (s : State) : State :=
  let p := s.ppu
  let e := p.spriteAt col
  let bg := p.bgValue col (p.bgQueue.headD 0)
  let sp := p.spriteOpaque col e
  let out := p.read (paletteAddr bg sp e)
  { s with
    ppu := { p with
      bgQueue := p.bgQueue.tail
      status := if sprite0Hit bg sp e then p.status ||| 0x40 else p.status }
    events := .drawPixel col p.scanline out p.mask :: s.events }

/-- The compositor's work at the current dot (rule R520). -/
def compositorDot (s : State) : State :=
  if s.ppu.onVisibleLine ∧ 1 ≤ s.ppu.cycle ∧ s.ppu.cycle ≤ 256 then composePixel (s.ppu.cycle - 1) s else s

end Sys2Proof.Machine
end

