-- ==== Sys2Proof/Machine/Timing.lean ====
section
/-! DEFINITION. The PPU scanline timing engine (spec/46_ppu_timing.md): the scroll updates, the vblank and pre-render
actions, one dot, and a run of dots. -/

namespace Sys2Proof.Machine

/-- The vertical increment (rule R405). -/
def verticalIncrement (v : VramAddr) : VramAddr :=
  if fineY v < 7 then setField v 12 (fineY v + 1)
  else
    let u := setField v 12 (0 : BitVec 3)
    if coarseY v = 29 then setField u 5 (0 : BitVec 5) ^^^ 0x0800
    else if coarseY v = 31 then setField u 5 (0 : BitVec 5)
    else setField u 5 (coarseY v + 1)

/-- The horizontal reload in mask form (rule R406). -/
def horizontalReload (v t : VramAddr) : VramAddr :=
  (v &&& 0x7BE0) ||| (t &&& 0x041F)

/-- The vertical reload in mask form (rule R411). -/
def verticalReload (v t : VramAddr) : VramAddr :=
  (v &&& 0x041F) ||| (t &&& 0x7BE0)

/-- An update of `v` that only happens while rendering is enabled (rule R404). -/
def Ppu.whenRendering (p : Ppu) (v : VramAddr) : Ppu :=
  if p.renderingEnabled then { p with v := v } else p

/-- Cycle 256 of a fetch line: the vertical increment, then the queue clear (rules R405, R452). -/
def lineEnd (p : Ppu) : Ppu :=
  { p.whenRendering (verticalIncrement p.v) with bgQueue := [] }

/-- The dot (241, 1): vblank, NMI eligibility, frame strobe (rules R408, R409). -/
def enterVblank (s : State) : State :=
  let p := s.ppu
  { s with
    ppu := { p with
      status := p.status ||| 0x80
      nmiSuppress := false
      nmiEligible := p.nmiEligible || !p.nmiSuppress }
    events := .resetRead :: .clearBuffer :: .updateScreen :: s.events }

/-- The dot (261, 1): the pre-render clear (rule R410). -/
def preRenderClear (s : State) : State :=
  { s with nmiServiced := false, ppu := { s.ppu with status := 0, nmiEligible := false } }

/-- The timing engine's own actions at the current dot (rules R400, R402 item 5). -/
def timingDot (s : State) : State :=
  let p := s.ppu
  if p.onFetchLine ∧ p.cycle = 256 then s.setPpu (lineEnd p)
  else if p.onFetchLine ∧ p.cycle = 257 then s.setPpu (p.whenRendering (horizontalReload p.v p.t))
  else if p.scanline = 261 ∧ 280 ≤ p.cycle ∧ p.cycle ≤ 304 then
    s.setPpu (p.whenRendering (verticalReload p.v p.t))
  else if p.scanline = 241 ∧ p.cycle = 1 then enterVblank s
  else if p.scanline = 261 ∧ p.cycle = 1 then preRenderClear s
  else s

/-- The work of one dot in the order of rule R402. -/
def dotWork (s : State) : State :=
  let s1 := s.setPpu (fineXDiscard s.ppu)
  let s2 := compositorDot s1
  let s3 := s2.setPpu (spriteDot (backgroundDot s2.ppu))
  timingDot s3

/-- The advance of the counters (rules R401, R412). -/
def advanceDot (p : Ppu) : Ppu :=
  let q : Ppu :=
    if p.cycle + 1 = 341 then
      if p.scanline + 1 = 262 then { p with cycle := 0, scanline := 0, evenFrame := !p.evenFrame }
      else { p with cycle := 0, scanline := p.scanline + 1 }
    else { p with cycle := p.cycle + 1 }
  if q.scanline = 261 ∧ q.cycle = 340 ∧ q.evenFrame = false ∧ q.renderingEnabled = true then
    { q with scanline := 0, cycle := 0, evenFrame := !q.evenFrame }
  else q

/-- `ppu_tick()` (rule R401): work at the position the counters hold, then advance. -/
def ppuTick (s : State) : State :=
  let t := dotWork s
  t.setPpu (advanceDot t.ppu)

/-- `n` dots. -/
def runDots : Nat → State → State
  | 0, s => s
  | n + 1, s => runDots n (ppuTick s)

end Sys2Proof.Machine
end

