-- ==== Sys2Proof/Machine/Cycle.lean ====
section
/-! DEFINITION. The parts of a step: the NMI poll and entry (spec/60_exceptions.md), the instruction fetch (rules R106,
R140, R150), the end of a step (rule R610), and the placing of an instruction where it is fetched. -/

namespace Sys2Proof.Machine

/-- The start of a step: `cycles <- 0` (rule R610); the event record starts empty (log entry 6). -/
def beginStep (s : State) : State :=
  { s with cycles := 0, events := [] }

/-- The NMI condition (rule R555). -/
def nmiCondition (s : State) : Bool :=
  s.ppu.vblank && s.ppu.nmiEnable && s.ppu.nmiEligible && !s.nmiServiced

/-- NMI entry (rule R556): the pushed `PC` is the interrupted instruction's own address, the pushed status has bit 4 =
the live `B`. -/
def nmiEntry (s : State) : State :=
  addCycles 7 ((enterInterrupt s.pc (statusByte s.flags) 0xFFFA s).setNmiServiced true)

/-- Byte `k` of the instruction at `PC` (rules R33, R140). -/
def codeByte (s : State) (k : Nat) : Byte :=
  peek s (s.pc + BitVec.ofNat 16 k)

/-- Byte `k` of the instruction at `PC` lies in a port (rule R106, item U8). -/
def codeInPort (s : State) (k : Nat) : Bool :=
  isPort (s.pc + BitVec.ofNat 16 k)

/-- The instruction at `PC`: the opcode byte, then only the operand bytes its format has (rules R140, R150), each outside
the ports (rule R106). -/
def fetchInstr (s : State) : Except Refusal Instr :=
  if codeInPort s 0 then .error .fetchFromPort
  else
    match opcodeMap (codeByte s 0) with
    | .one i => .ok i
    | .two f => if codeInPort s 1 then .error .fetchFromPort else .ok (f (codeByte s 1))
    | .three f =>
      if codeInPort s 1 || codeInPort s 2 then .error .fetchFromPort
      else .ok (f (mkWord (codeByte s 2) (codeByte s 1)))

/-- The end of a step (rule R610): the cycles go into `total_cycle`, then three dots for each. -/
def finishStep (s : State) : State :=
  runDots (3 * s.cycles) (s.setTotalCycle (s.totalCycle + s.cycles))

/-- The cell of the CPU array behind an address outside the ports (rules R83, R85). -/
def codeCell (addr : Word) : Nat :=
  if addr < 0x2000 then (addr &&& 0x07FF).toNat else addr.toNat

/-- Three bytes stored at `PC`, `PC + 1` and `PC + 2` in the CPU array. -/
def placeBytes (s : State) (b0 b1 b2 : Byte) : State :=
  let put := fun (m : Memory) (k : Nat) (b : Byte) => m.write (codeCell (s.pc + BitVec.ofNat 16 k)) b
  s.setCpuMem (put (put (put s.cpuMem 0 b0) 1 b1) 2 b2)

/-- The state in which the next step fetches an instruction from memory: no NMI is due (it would be taken first, rule
R558), and no byte at `PC`, `PC + 1`, `PC + 2` lies in a port (rule R106). Where that already holds nothing changes;
else the one-shot NMI latch is set, or `PC` becomes 0x0000. -/
def readyToFetch (s : State) : State :=
  let t := if nmiCondition s then s.setNmiServiced true else s
  if codeInPort t 0 || codeInPort t 1 || codeInPort t 2 then t.setPc 0 else t

/-- The state with an opcode-table word stored where the next step fetches it. -/
def placeWord (s : State) (nbits w : Nat) : State :=
  let v := w % 2 ^ nbits
  placeBytes (readyToFetch s) (BitVec.ofNat 8 v) (BitVec.ofNat 8 (v / 256)) (BitVec.ofNat 8 (v / 65536))

end Sys2Proof.Machine
end

