-- ==== Sys2Proof/Machine/Flags.lean ====
section
/-! DEFINITION. Every flag computation: `SetNZ` (rule R38), the arithmetic of rules R231, R232, R236 and the shifts of
rules R261 to R266. -/

namespace Sys2Proof.Machine

/-- `SetNZ(v)` (rule R38). -/
def Flags.setNZ (f : Flags) (v : Byte) : Flags :=
  { f with z := decide (v = 0), n := bitOf v 7 }

/-- `SetNZ` on the state's flags. -/
def setNZ (v : Byte) (s : State) : State :=
  s.setFlags (s.flags.setNZ v)

/-- ADC (rule R231): the exact sum, narrowed at the end. -/
def adcState (m : Byte) (s : State) : State :=
  let sum := s.a.toNat + m.toNat + s.flags.c.toNat
  let r : Byte := BitVec.ofNat 8 sum
  let f : Flags := { s.flags with
    c := decide (255 < sum)
    v := decide ((s.a ^^^ r) &&& (m ^^^ r) &&& 0x80 ≠ 0) }
  { s with a := r, flags := f.setNZ r }

/-- SBC (rule R232): the exact difference, narrowed at the end. -/
def sbcState (m : Byte) (s : State) : State :=
  let diff : Int := (s.a.toNat : Int) - m.toNat - (1 - s.flags.c.toNat)
  let r : Byte := BitVec.ofInt 8 diff
  let f : Flags := { s.flags with
    c := decide (0 ≤ diff)
    v := decide ((s.a ^^^ r) &&& (s.a ^^^ m) &&& 0x80 ≠ 0) }
  { s with a := r, flags := f.setNZ r }

/-- A compare of register value `reg` with `m` (rules R236 to R238). -/
def compareState (reg m : Byte) (s : State) : State :=
  let f : Flags := { s.flags with c := decide (m ≤ reg) }
  s.setFlags (f.setNZ (reg - m))

/-- BIT (rule R239). -/
def bitState (m : Byte) (s : State) : State :=
  s.setFlags { s.flags with z := decide (s.a &&& m = 0), n := bitOf m 7, v := bitOf m 6 }

/-- The result and the flags of a one-byte operation. -/
abbrev ByteOp := Byte → Flags → Byte × Flags

/-- ASL (rule R261). -/
def aslOp : ByteOp := fun m f =>
  let r := m <<< 1
  (r, Flags.setNZ { f with c := bitOf m 7 } r)

/-- LSR (rule R262). -/
def lsrOp : ByteOp := fun m f =>
  let r := m >>> 1
  (r, Flags.setNZ { f with c := bitOf m 0 } r)

/-- ROL (rule R263). -/
def rolOp : ByteOp := fun m f =>
  let r := m <<< 1 ||| (bit1 f.c).setWidth 8
  (r, Flags.setNZ { f with c := bitOf m 7 } r)

/-- ROR (rule R264). -/
def rorOp : ByteOp := fun m f =>
  let r := m >>> 1 ||| (bit1 f.c).setWidth 8 <<< 7
  (r, Flags.setNZ { f with c := bitOf m 0 } r)

/-- INC (rule R265), also the arithmetic of INX and INY. -/
def incOp : ByteOp := fun m f =>
  let r := m + 1
  (r, f.setNZ r)

/-- DEC (rule R266), also the arithmetic of DEX and DEY. -/
def decOp : ByteOp := fun m f =>
  let r := m - 1
  (r, f.setNZ r)

end Sys2Proof.Machine
end

