-- ==== Sys2Proof/Machine/Operands.lean ====
section
/-! DEFINITION. Every operand form: the effective addresses of rules R154 to R162, the page-cross penalty of rule R164, the
base cycle counts of rule R171 by class and mode, and the four uses of an operand (rule R150). -/

namespace Sys2Proof.Machine

/-- An effective address and whether the indexing crossed a page (rule R150). -/
structure EffAddr where
  ea : Word
  crossed : Bool
  deriving DecidableEq, Repr

/-- A base address plus an index, with the page-cross test (rules R150, R161). -/
def indexed (base : Word) (index : Byte) : EffAddr :=
  let ea := base + zext16 index
  { ea := ea, crossed := decide (hi8 base ≠ hi8 ea) }

/-- An address without a page-cross test. -/
def plainAddr (ea : Word) : EffAddr :=
  { ea := ea, crossed := false }

/-- The pointer in page 0 at `p` and `(p + 1) mod 256` (rules R158, R159). Page 0 is internal RAM, so the reads have no
side effect. -/
def zeroPagePointer (s : State) (p : Byte) : Word :=
  mkWord (peek s (zext16 (p + 1))) (peek s (zext16 p))

/-- The effective address of a memory mode (rules R154 to R162). -/
def effAddr (m : MemOperand) (s : State) : EffAddr :=
  match m with
  | .zp b1 => plainAddr (zext16 b1)
  | .zpx b1 => plainAddr (zext16 (b1 + s.x))
  | .zpy b1 => plainAddr (zext16 (b1 + s.y))
  | .abs addr => plainAddr addr
  | .abx base => indexed base s.x
  | .aby base => indexed base s.y
  | .izx b1 => plainAddr (zeroPagePointer s (b1 + s.x))
  | .izy b1 => indexed (zeroPagePointer s b1) s.y

/-- Length in bytes of an instruction with this memory mode (rule R142). -/
def memLength : MemOperand → Nat
  | .zp _ | .zpx _ | .zpy _ | .izx _ | .izy _ => 2
  | .abs _ | .abx _ | .aby _ => 3

/-- Length of a class R instruction (rule R142). -/
def readLength : ReadOperand → Nat
  | .imm _ => 2
  | .mem m => memLength m

/-- Base cycles of a class R instruction in a memory mode (rules R171, R230). -/
def memReadCycles : MemOperand → Nat
  | .zp _ => 3
  | .zpx _ | .zpy _ => 4
  | .abs _ | .abx _ | .aby _ => 4
  | .izx _ => 6
  | .izy _ => 5

/-- Base cycles of a class W instruction (rules R171, R204). -/
def writeCycles : MemOperand → Nat
  | .zp _ => 3
  | .zpx _ | .zpy _ => 4
  | .abs _ => 4
  | .abx _ | .aby _ => 5
  | .izx _ | .izy _ => 6

/-- Base cycles of a class RMW instruction (rules R171, R260). The four modes the class does not have
(`MemOperand.inRmw`) have no row in the table; no decoded instruction has them (log entry 8). -/
def rmwCycles : MemOperand → Nat
  | .zp _ => 5
  | .zpx _ | .abs _ => 6
  | .abx _ => 7
  | .zpy _ | .aby _ | .izx _ | .izy _ => 7

/-- The value of a memory operand, read once, and the state after the read (rule R150). -/
def loadMem (m : MemOperand) (s : State) : Byte × State :=
  memRead (effAddr m s).ea s

/-- The value of a class R operand and the state after reading it (rules R150, R153, R200). -/
def loadOperand (o : ReadOperand) (s : State) : Byte × State :=
  match o with
  | .imm b1 => (b1, s)
  | .mem m => loadMem m s

/-- Cycles of a class R instruction in a memory mode, with the page-cross penalty (rules R164, R171). -/
def memReadCost (m : MemOperand) (s : State) : Nat :=
  memReadCycles m + (effAddr m s).crossed.toNat

/-- Cycles of a class R instruction (rules R164, R171). -/
def readCost (o : ReadOperand) (s : State) : Nat :=
  match o with
  | .imm _ => 2
  | .mem m => memReadCost m s

/-- A class R instruction (rules R150, R200, R230): read the operand, apply the effect, advance. -/
def execRead (o : ReadOperand) (effect : Byte → State → State) (s : State) : Result :=
  let r := loadOperand o s
  .next (retire (readLength o) (readCost o s) (effect r.1 r.2))

/-- A class W instruction (rules R150, R200): one write of `val` to the effective address. -/
def execStore (m : MemOperand) (val : Byte) (s : State) : Result :=
  andThen (memWrite (effAddr m s).ea val s) fun t =>
    .next (retire (memLength m) (writeCycles m) t)

/-- A class RMW instruction in a memory mode (rules R150, R260): one read, then one write of the result. -/
def execRmw (m : MemOperand) (op : Byte → Flags → Byte × Flags) (s : State) : Result :=
  let ea := (effAddr m s).ea
  let r := memRead ea s
  let out := op r.1 r.2.flags
  andThen (memWrite ea out.1 (r.2.setFlags out.2)) fun t =>
    .next (retire (memLength m) (rmwCycles m) t)

/-- A shift or rotate (rule R260): the accumulator form or a memory form. -/
def execShift (o : ShiftOperand) (op : Byte → Flags → Byte × Flags) (s : State) : Result :=
  match o with
  | .acc =>
    let out := op s.a s.flags
    .next (retire 1 2 ((s.setA out.1).setFlags out.2))
  | .mem m => execRmw m op s

/-- A one-byte two-cycle instruction that touches no memory (rule R171). -/
def execImplied (effect : State → State) (s : State) : Result :=
  .next (retire 1 2 (effect s))

/-- The pointer step of JMP indirect (rule R157). -/
def indirectHigh (ptr : Word) (pageWrap : Bool) : Word :=
  if pageWrap then (ptr &&& 0xFF00) ||| ((ptr + 1) &&& 0x00FF) else ptr + 1

/-- The target of JMP and the state after reading it (rules R157, R160). -/
def jumpTarget (o : JumpOperand) (s : State) : Word × State :=
  match o with
  | .abs target => (target, s)
  | .ind ptr =>
    let lo := memRead ptr s
    let hi := memRead (indirectHigh ptr s.params.jmpIndirectPageWrap) lo.2
    (mkWord hi.1 lo.1, hi.2)

/-- Base cycles of JMP (rule R299). -/
def jumpCycles : JumpOperand → Nat
  | .abs _ => 3
  | .ind _ => 5

end Sys2Proof.Machine
end

