-- ==== Sys2Proof/Machine/Arithmetic.lean ====
section
/-! DEFINITION. Arithmetic, logic, compare and bit test (spec/41_arithmetic_logic.md). -/

namespace Sys2Proof.Machine

/-- ADC (rule R231). -/
def execAdc (o : ReadOperand) (s : State) : Result :=
  execRead o adcState s

/-- SBC (rule R232). -/
def execSbc (o : ReadOperand) (s : State) : Result :=
  execRead o sbcState s

/-- AND (rule R233). -/
def execAnd (o : ReadOperand) (s : State) : Result :=
  execRead o (fun v t => setNZ (t.a &&& v) (t.setA (t.a &&& v))) s

/-- ORA (rule R234). -/
def execOra (o : ReadOperand) (s : State) : Result :=
  execRead o (fun v t => setNZ (t.a ||| v) (t.setA (t.a ||| v))) s

/-- EOR (rule R235). -/
def execEor (o : ReadOperand) (s : State) : Result :=
  execRead o (fun v t => setNZ (t.a ^^^ v) (t.setA (t.a ^^^ v))) s

/-- CMP (rule R236). -/
def execCmp (o : ReadOperand) (s : State) : Result :=
  execRead o (fun v t => compareState t.a v t) s

/-- CPX (rule R237). -/
def execCpx (o : ReadOperand) (s : State) : Result :=
  execRead o (fun v t => compareState t.x v t) s

/-- CPY (rule R238). -/
def execCpy (o : ReadOperand) (s : State) : Result :=
  execRead o (fun v t => compareState t.y v t) s

/-- BIT (rule R239). -/
def execBit (m : MemOperand) (s : State) : Result :=
  execRead (.mem m) bitState s

end Sys2Proof.Machine
end

