-- ==== Sys2Proof/Machine/Control.lean ====
section
/-! DEFINITION. Branches, jumps, calls and returns (spec/43_control_transfer.md). -/

namespace Sys2Proof.Machine

/-- The eight branches (rule R290), with the penalties for a taken branch and for a target on another page than the
next instruction's. -/
def execBranch (cond : Bool) (rel : Byte) (s : State) : Result :=
  let next := s.pc + 2
  let target := next + sext16 rel
  if cond then
    .next (retireAt target (3 + (decide (hi8 target ≠ hi8 next)).toNat) s)
  else
    .next (retireAt next 2 s)

/-- BCC (rule R291). -/
def execBcc (rel : Byte) (s : State) : Result :=
  execBranch (!s.flags.c) rel s

/-- BCS (rule R292). -/
def execBcs (rel : Byte) (s : State) : Result :=
  execBranch s.flags.c rel s

/-- BEQ (rule R293). -/
def execBeq (rel : Byte) (s : State) : Result :=
  execBranch s.flags.z rel s

/-- BNE (rule R294). -/
def execBne (rel : Byte) (s : State) : Result :=
  execBranch (!s.flags.z) rel s

/-- BMI (rule R295). -/
def execBmi (rel : Byte) (s : State) : Result :=
  execBranch s.flags.n rel s

/-- BPL (rule R296). -/
def execBpl (rel : Byte) (s : State) : Result :=
  execBranch (!s.flags.n) rel s

/-- BVC (rule R297). -/
def execBvc (rel : Byte) (s : State) : Result :=
  execBranch (!s.flags.v) rel s

/-- BVS (rule R298). -/
def execBvs (rel : Byte) (s : State) : Result :=
  execBranch s.flags.v rel s

/-- JMP (rule R299). -/
def execJmp (o : JumpOperand) (s : State) : Result :=
  let t := jumpTarget o s
  .next (retireAt t.1 (jumpCycles o) t.2)

/-- JSR (rule R300): pushes the address of its last byte. -/
def execJsr (target : Word) (s : State) : Result :=
  .next (retireAt target 6 (push16 (s.pc + 2) s))

/-- RTS (rule R301). -/
def execRts (s : State) : Result :=
  let r := pull16 s
  .next (retireAt (r.1 + 1) 6 r.2)

end Sys2Proof.Machine
end

