-- ==== Sys2Proof/Machine/Loads.lean ====
section
/-! DEFINITION. Loads, stores and transfers (spec/40_load_store_transfer.md). -/

namespace Sys2Proof.Machine

/-- LDA (rule R201). -/
def execLda (o : ReadOperand) (s : State) : Result :=
  execRead o (fun v t => setNZ v (t.setA v)) s

/-- LDX (rule R202). -/
def execLdx (o : ReadOperand) (s : State) : Result :=
  execRead o (fun v t => setNZ v (t.setX v)) s

/-- LDY (rule R203). -/
def execLdy (o : ReadOperand) (s : State) : Result :=
  execRead o (fun v t => setNZ v (t.setY v)) s

/-- STA (rule R204). -/
def execSta (m : MemOperand) (s : State) : Result :=
  execStore m s.a s

/-- STX (rule R205). -/
def execStx (m : MemOperand) (s : State) : Result :=
  execStore m s.x s

/-- STY (rule R206). -/
def execSty (m : MemOperand) (s : State) : Result :=
  execStore m s.y s

/-- TAX (rule R207). -/
def execTax (s : State) : Result :=
  execImplied (fun t => setNZ t.a (t.setX t.a)) s

/-- TAY (rule R208). -/
def execTay (s : State) : Result :=
  execImplied (fun t => setNZ t.a (t.setY t.a)) s

/-- TXA (rule R209). -/
def execTxa (s : State) : Result :=
  execImplied (fun t => setNZ t.x (t.setA t.x)) s

/-- TYA (rule R210). -/
def execTya (s : State) : Result :=
  execImplied (fun t => setNZ t.y (t.setA t.y)) s

/-- TSX (rule R211). -/
def execTsx (s : State) : Result :=
  execImplied (fun t => setNZ t.sp (t.setX t.sp)) s

/-- TXS (rule R212): the one transfer that writes no flag. -/
def execTxs (s : State) : Result :=
  execImplied (fun t => t.setSp t.x) s

end Sys2Proof.Machine
end

