-- ==== Sys2Proof/Machine/Shifts.lean ====
section
/-! DEFINITION. Shifts, rotates, increments and decrements (spec/42_shift_incdec.md). -/

namespace Sys2Proof.Machine

/-- ASL (rule R261). -/
def execAsl (o : ShiftOperand) (s : State) : Result :=
  execShift o aslOp s

/-- LSR (rule R262). -/
def execLsr (o : ShiftOperand) (s : State) : Result :=
  execShift o lsrOp s

/-- ROL (rule R263). -/
def execRol (o : ShiftOperand) (s : State) : Result :=
  execShift o rolOp s

/-- ROR (rule R264). -/
def execRor (o : ShiftOperand) (s : State) : Result :=
  execShift o rorOp s

/-- INC (rule R265). -/
def execInc (m : MemOperand) (s : State) : Result :=
  execRmw m incOp s

/-- DEC (rule R266). -/
def execDec (m : MemOperand) (s : State) : Result :=
  execRmw m decOp s

/-- INX (rule R267). -/
def execInx (s : State) : Result :=
  execImplied (fun t => (t.setX (incOp t.x t.flags).1).setFlags (incOp t.x t.flags).2) s

/-- INY (rule R268). -/
def execIny (s : State) : Result :=
  execImplied (fun t => (t.setY (incOp t.y t.flags).1).setFlags (incOp t.y t.flags).2) s

/-- DEX (rule R269). -/
def execDex (s : State) : Result :=
  execImplied (fun t => (t.setX (decOp t.x t.flags).1).setFlags (decOp t.x t.flags).2) s

/-- DEY (rule R270). -/
def execDey (s : State) : Result :=
  execImplied (fun t => (t.setY (decOp t.y t.flags).1).setFlags (decOp t.y t.flags).2) s

end Sys2Proof.Machine
end

