-- ==== Sys2Proof/Machine/System.lean ====
section
/-! DEFINITION. Stack, flag, system and unknown-opcode instructions (spec/44_stack_flags_system.md). -/

namespace Sys2Proof.Machine

/-- PHA (rule R321). -/
def execPha (s : State) : Result :=
  .next (retire 1 3 (push8 s.a s))

/-- PHP (rule R322). -/
def execPhp (s : State) : Result :=
  .next (retire 1 3 (push8 (statusByte s.flags) s))

/-- PLA (rule R323). -/
def execPla (s : State) : Result :=
  let r := pull8 s
  .next (retire 1 4 (setNZ r.1 (r.2.setA r.1)))

/-- PLP (rule R324). -/
def execPlp (s : State) : Result :=
  let r := pull8 s
  .next (retire 1 4 (r.2.setFlags (loadStatus r.1 r.2.flags)))

/-- CLC (rule R325). -/
def execClc (s : State) : Result :=
  execImplied (fun t => t.setFlags { t.flags with c := false }) s

/-- SEC (rule R326). -/
def execSec (s : State) : Result :=
  execImplied (fun t => t.setFlags { t.flags with c := true }) s

/-- CLI (rule R327). -/
def execCli (s : State) : Result :=
  execImplied (fun t => t.setFlags { t.flags with i := false }) s

/-- SEI (rule R328). -/
def execSei (s : State) : Result :=
  execImplied (fun t => t.setFlags { t.flags with i := true }) s

/-- CLD (rule R329). -/
def execCld (s : State) : Result :=
  execImplied (fun t => t.setFlags { t.flags with d := false }) s

/-- SED (rule R330). -/
def execSed (s : State) : Result :=
  execImplied (fun t => t.setFlags { t.flags with d := true }) s

/-- CLV (rule R331). -/
def execClv (s : State) : Result :=
  execImplied (fun t => t.setFlags { t.flags with v := false }) s

/-- NOP (rule R332). -/
def execNop (s : State) : Result :=
  execImplied id s

/-- BRK (rules R333, R557): the software interrupt. The byte at `PC + 1` is not read. -/
def execBrk (s : State) : Result :=
  .next (addCycles 7 (enterInterrupt (s.pc + 2) (statusByteBrk s.flags) 0xFFFE s))

/-- RTI (rules R334, R559). -/
def execRti (s : State) : Result :=
  .next (addCycles 6 (returnFromInterrupt s))

/-- UNKNOWN (rules R172, R335): a one-byte, one-cycle no-op for every unknown opcode byte. -/
def execUnknown (_op : Byte) (s : State) : Result :=
  .next (retire 1 1 s)

end Sys2Proof.Machine
end

