-- ==== Sys2Proof/Machine/Step.lean ====
section
/-! DEFINITION. The step (rule R610) and the placing of one instruction for the next step. -/

namespace Sys2Proof.Machine

/-- `step()` (rule R610): the NMI poll comes first (rules R555, R558); else one instruction; then the dots. With an NMI due the
entry is taken even when `PC` lies in 0x2000..0x4017, since that step fetches no instruction; item U8 and decision D50 refuse on
`PC` alone, and the precedence is this model's choice (DESIGN CHOICE, unsafe, log entry 17). -/
def step (s : State) : Host.Outcome State Fault Refusal :=
  let s0 := beginStep s
  if nmiCondition s0 then .next (finishStep (nmiEntry s0))
  else
    match fetchInstr s0 with
    | .error r => .refused r
    | .ok i => andThen (exec i s0) fun t => .next (finishStep t)

/-- The state with an opcode-table word stored where the next step fetches its instruction. -/
def State.withFetchWord (s : State) (nbits w : Nat) : State :=
  placeWord s nbits w

end Sys2Proof.Machine
end

