-- ==== Sys2Proof/Safety.lean ====
section
/-! DEFINITION. The terms of the claims: what stays the same across an instruction, the invariant of the machine, and what
the position of the picture unit says about its queue. -/

namespace Sys2Proof.Machine

/-- Every cell of the CPU array holds in `t` what it held in `s`. -/
def SameMemory (s t : State) : Prop :=
  ∀ k : Nat, t.cpuMem.read k = s.cpuMem.read k

/-- Everything outside the CPU's registers, flags, `PC`, cycle counts and memory array is the same: the picture unit, the
NMI latch, the input and event records, the parameters. -/
def SameDevices (s t : State) : Prop :=
  t.ppu = s.ppu ∧ t.nmiServiced = s.nmiServiced ∧ t.inputReads = s.inputReads ∧ t.events = s.events ∧
    t.params = s.params

/-- `A`, `X`, `Y` and `SP` are the same. -/
def SameRegisters (s t : State) : Prop :=
  t.a = s.a ∧ t.x = s.x ∧ t.y = s.y ∧ t.sp = s.sp

/-- `t` follows `s` by `length` bytes of code and `cost` cycles of the current step (rules R33, R610). -/
def Advanced (length cost : Nat) (s t : State) : Prop :=
  t.pc = s.pc + BitVec.ofNat 16 length ∧ t.cycles = s.cycles + cost ∧ t.totalCycle = s.totalCycle

/-- The flags of `t` are those of `s` but for Z and N, which are those of the value `v` (rule R38). -/
def FlagsNZ (v : Byte) (s t : State) : Prop :=
  t.flags = { s.flags with z := decide (v.toNat = 0), n := decide (0x80 ≤ v.toNat) }

/-- The picture unit's invariant: its memories are in canonical form, its counters and indexes in range, PPUSTATUS bits 4:0
are 0 (rules R53, R57, R60 to R64), and NMI eligibility implies the vblank bit (rules R58, R364, R408, R410). -/
structure Ppu.Inv (p : Ppu) : Prop where
  mem_wf : p.mem.wf 0x4000 = true
  oam_wf : p.oam.wf 256 = true
  secOam_wf : Cells.wf secOamFill 32 p.secOam = true
  spriteBuf_wf : Cells.wf SpritePixel.unwritten 256 p.spriteBuf = true
  cycle_le : p.cycle ≤ 340
  scanline_le : p.scanline ≤ 261
  status_low : p.status &&& 0x1F = 0
  count_le : p.eval.count ≤ 8
  slot_free : p.eval.mode = .y ∨ p.eval.mode = .rest → p.eval.count < 8
  fetchCount_le : p.eval.fetchCount ≤ 8
  eligible_vblank : p.nmiEligible = true → p.vblank = true

/-- The machine's invariant: the CPU array is in canonical form (rule R50), the live break flag is 0 (rule R41), the NMI
latch implies the vblank bit (rules R48, R556), and the picture unit's invariant holds. -/
structure State.Inv (s : State) : Prop where
  cpuMem_wf : s.cpuMem.wf 0x10000 = true
  break_clear : s.flags.b = false
  serviced_vblank : s.nmiServiced = true → s.ppu.vblank = true
  ppu : s.ppu.Inv

/-- The most entries the background queue can hold before the dot `(scanline, cycle)` (rules R65, R441, R450, R452). -/
def queueBound (scanline cycle : Nat) : Nat :=
  if scanline ≤ 239 ∨ scanline = 261 then
    if cycle = 0 then 16
    else if cycle ≤ 256 then
      if scanline = 261 then 16 + 8 * ((cycle - 1) / 8) else 16 - (cycle - 1) % 8
    else if cycle ≤ 328 then 0
    else if cycle ≤ 336 then 8
    else 16
  else 16

/-- The counters are in range and the background queue within its bound. -/
def QueueBounded (s : State) : Prop :=
  s.ppu.cycle ≤ 340 ∧ s.ppu.scanline ≤ 261 ∧
    s.ppu.bgQueue.length ≤ queueBound s.ppu.scanline s.ppu.cycle

/-- The number of a dot in its frame, `(0, 0)` first (rules R14, R400). -/
def dotIndex (s : State) : Nat :=
  341 * s.ppu.scanline + s.ppu.cycle

/-- The eight encodings of a mnemonic of the eight-mode group with opcode base `g` (rule R230). -/
def GroupEncoding (g : Byte) (f : ReadOperand → Instr) : Prop :=
  ∀ (b : Byte) (w : Word),
    encode (f (.mem (.izx b))) = [g, b] ∧ encode (f (.mem (.zp b))) = [g + 0x04, b] ∧
    encode (f (.imm b)) = [g + 0x08, b] ∧ encode (f (.mem (.abs w))) = [g + 0x0C, lo8 w, hi8 w] ∧
    encode (f (.mem (.izy b))) = [g + 0x10, b] ∧ encode (f (.mem (.zpx b))) = [g + 0x14, b] ∧
    encode (f (.mem (.aby w))) = [g + 0x18, lo8 w, hi8 w] ∧ encode (f (.mem (.abx w))) = [g + 0x1C, lo8 w, hi8 w]

end Sys2Proof.Machine
end

