-- ==== Sys2Proof/WellFormed.lean ====
section
/-! DEFINITION. Which instruction terms the hardware has an encoding for: the mode sets of rule R171 and the unknown
opcode bytes of rule R172. -/

namespace Sys2Proof

/-- The 105 opcode bytes that select no documented instruction, as rule R172 lists them. -/
def unknownOpcodes : List Byte :=
  [0x02, 0x03, 0x04, 0x07, 0x0B, 0x0C, 0x0F, 0x12, 0x13, 0x14, 0x17, 0x1A, 0x1B, 0x1C, 0x1F, 0x22] ++
  [0x23, 0x27, 0x2B, 0x2F, 0x32, 0x33, 0x34, 0x37, 0x3A, 0x3B, 0x3C, 0x3F, 0x42, 0x43, 0x44, 0x47] ++
  [0x4B, 0x4F, 0x52, 0x53, 0x54, 0x57, 0x5A, 0x5B, 0x5C, 0x5F, 0x62, 0x63, 0x64, 0x67, 0x6B, 0x6F] ++
  [0x72, 0x73, 0x74, 0x77, 0x7A, 0x7B, 0x7C, 0x7F, 0x80, 0x82, 0x83, 0x87, 0x89, 0x8B, 0x8F, 0x92] ++
  [0x93, 0x97, 0x9B, 0x9C, 0x9E, 0x9F, 0xA3, 0xA7, 0xAB, 0xAF, 0xB2, 0xB3, 0xB7, 0xBB, 0xBF, 0xC2] ++
  [0xC3, 0xC7, 0xCB, 0xCF, 0xD2, 0xD3, 0xD4, 0xD7, 0xDA, 0xDB, 0xDC, 0xDF, 0xE2, 0xE3, 0xE7, 0xEB] ++
  [0xEF, 0xF2, 0xF3, 0xF4, 0xF7, 0xFA, 0xFB, 0xFC, 0xFF]

/-- The memory modes of the eight-mode group (rule R230) and of STA (rule R204): all but ZPY. -/
def MemOperand.inGroup : MemOperand → Bool
  | .zpy _ => false
  | .zp _ | .zpx _ | .abs _ | .abx _ | .aby _ | .izx _ | .izy _ => true

/-- The memory modes of the shifts, INC and DEC (rule R260): ZP, ZPX, ABS, ABX. -/
def MemOperand.inRmw : MemOperand → Bool
  | .zp _ | .zpx _ | .abs _ | .abx _ => true
  | .zpy _ | .aby _ | .izx _ | .izy _ => false

/-- ZP and ABS only: the memory modes of CPX, CPY (rules R237, R238) and BIT (rule R239). -/
def MemOperand.isPlain : MemOperand → Bool
  | .zp _ | .abs _ => true
  | .zpx _ | .zpy _ | .abx _ | .aby _ | .izx _ | .izy _ => false

/-- The memory modes of LDX (rule R202). -/
def MemOperand.inLdx : MemOperand → Bool
  | .zp _ | .zpy _ | .abs _ | .aby _ => true
  | .zpx _ | .abx _ | .izx _ | .izy _ => false

/-- The memory modes of LDY (rule R203). -/
def MemOperand.inLdy : MemOperand → Bool
  | .zp _ | .zpx _ | .abs _ | .abx _ => true
  | .zpy _ | .aby _ | .izx _ | .izy _ => false

/-- The memory modes of STX (rule R205). -/
def MemOperand.inStx : MemOperand → Bool
  | .zp _ | .zpy _ | .abs _ => true
  | .zpx _ | .abx _ | .aby _ | .izx _ | .izy _ => false

/-- The memory modes of STY (rule R206). -/
def MemOperand.inSty : MemOperand → Bool
  | .zp _ | .zpx _ | .abs _ => true
  | .zpy _ | .abx _ | .aby _ | .izx _ | .izy _ => false

/-- A read operand is immediate, or its memory mode is one of `ok`. -/
def ReadOperand.modeIn (ok : MemOperand → Bool) : ReadOperand → Bool
  | .imm _ => true
  | .mem m => ok m

/-- A shift operand is the accumulator, or its memory mode is one of rule R260. -/
def ShiftOperand.modeOk : ShiftOperand → Bool
  | .acc => true
  | .mem m => m.inRmw

/-- The instruction has an encoding (rules R171, R172). -/
def Instr.wf : Instr → Bool
  | .lda o | .adc o | .sbc o | .and o | .ora o | .eor o | .cmp o => o.modeIn MemOperand.inGroup
  | .ldx o => o.modeIn MemOperand.inLdx
  | .ldy o => o.modeIn MemOperand.inLdy
  | .cpx o | .cpy o => o.modeIn MemOperand.isPlain
  | .bit m => m.isPlain
  | .sta m => m.inGroup
  | .stx m => m.inStx
  | .sty m => m.inSty
  | .asl o | .lsr o | .rol o | .ror o => o.modeOk
  | .inc m | .dec m => m.inRmw
  | .unknown op => unknownOpcodes.contains op
  | .tax | .tay | .txa | .tya | .tsx | .txs => true
  | .inx | .iny | .dex | .dey => true
  | .bcc _ | .bcs _ | .beq _ | .bne _ | .bmi _ | .bpl _ | .bvc _ | .bvs _ => true
  | .jmp _ | .jsr _ | .rts => true
  | .pha | .php | .pla | .plp => true
  | .clc | .sec | .cli | .sei | .cld | .sed | .clv => true
  | .nop | .brk | .rti => true

end Sys2Proof
end

