-- ==== Sys2Proof/Certificates/Slice0/Obligations.lean ====
section
/-! DEFINITION. The statements for the provers. Each docstring names the rule of spec/ it formalises. -/

open Sys2Proof Sys2Proof.Machine

/-! ### Encoding -/

/-- Rules R140 to R142, R170, R171: decoding the bytes of any well-formed instruction, whatever follows them, gives it back
with every operand. -/
def Obligations.DecodeOfEncodeIsIdentity : Prop :=
  ∀ (i : Instr) (rest : List Byte), i.wf = true → decode (encode i ++ rest) = .ok (i, rest)

/-- Rules R140, R141: a byte string has one reading; what was decoded is well-formed and encodes to the bytes consumed. -/
def Obligations.EncodeOfDecodeIsIdentity : Prop :=
  ∀ (bytes rest : List Byte) (i : Instr), decode bytes = .ok (i, rest) → i.wf = true ∧ encode i ++ rest = bytes

/-- Rule R173 (with the list of R172): the decoder is total, and 105 opcode bytes, no more, decode to UNKNOWN. -/
def Obligations.EveryOpcodeByteDecodes : Prop :=
  (∀ (op b1 b2 : Byte) (rest : List Byte), ∃ (i : Instr) (rest' : List Byte),
      decode (op :: b1 :: b2 :: rest) = .ok (i, rest')) ∧
  (∀ (op : Byte) (rest rest' : List Byte) (i : Instr), decode (op :: rest) = .ok (i, rest') →
      ((∃ q, i = .unknown q) ↔ op ∈ unknownOpcodes)) ∧
  unknownOpcodes.length = 105 ∧ unknownOpcodes.Nodup

/-- Words written out from the encodings of rules R201, R204, R205, R231, R239, R261, R291, R299, R300, R321, R333, R335. -/
def Obligations.SpecWordsDecode : Prop :=
  decode [0xA9, 0x05] = .ok (.lda (.imm 0x05), []) ∧
  decode [0x8D, 0x00, 0x02] = .ok (.sta (.abs 0x0200), []) ∧
  decode [0x96, 0xF0] = .ok (.stx (.zpy 0xF0), []) ∧
  decode [0x71, 0x20] = .ok (.adc (.mem (.izy 0x20)), []) ∧
  decode [0x2C, 0x02, 0x20] = .ok (.bit (.abs 0x2002), []) ∧
  decode [0x1E, 0xF0, 0x02] = .ok (.asl (.mem (.abx 0x02F0)), []) ∧
  decode [0x90, 0x04] = .ok (.bcc 0x04, []) ∧
  decode [0x6C, 0xFF, 0x02] = .ok (.jmp (.ind 0x02FF), []) ∧
  decode [0x20, 0x10, 0xC0] = .ok (.jsr 0xC010, []) ∧
  decode [0x48] = .ok (.pha, []) ∧
  decode [0x00] = .ok (.brk, []) ∧
  decode [0x02] = .ok (.unknown 0x02, [])

/-! ### The step -/

/-- Rules R140, R150, R610: when no NMI is due and the bytes at `PC` decode to `i`, none of them in a port, the step is
`exec i` on the state with an empty cycle count, and then the end of the step: the cycles go into `total_cycle` and three
dots are performed for each. -/
def Obligations.StepRunsTheDecodedInstruction : Prop :=
  ∀ (s : State) (i : Instr) (rest : List Byte),
    nmiCondition s = false →
    decode [peek s s.pc, peek s (s.pc + 1), peek s (s.pc + 2)] = .ok (i, rest) →
    (∀ k : Nat, k + rest.length < 3 → isPort (s.pc + BitVec.ofNat 16 k) = false) →
    step s = andThen (exec i { s with cycles := 0, events := [] }) fun t =>
      .next (runDots (3 * t.cycles) { t with totalCycle := t.totalCycle + t.cycles })

/-- Rule R106, item U8 of spec/93_implementation_defined.md: a fetch from 0x2000..0x4017 is refused, for the opcode byte and
for each operand byte the opcode's format has. -/
def Obligations.FetchFromPortIsRefused : Prop :=
  ∀ (s : State) (k : Nat),
    nmiCondition s = false →
    isPort (s.pc + BitVec.ofNat 16 k) = true →
    (k = 0 ∨ k = 1 ∧ 2 ≤ (opcodeMap (peek s s.pc)).length ∨ k = 2 ∧ (opcodeMap (peek s s.pc)).length = 3) →
    step s = .refused .fetchFromPort

/-- Rule R556 (the condition spelled out as in R555): the NMI entry, one whole step of 7 cycles and 21 dots. That it is taken
also when `PC` lies in a port is the model's choice (log entry 17). -/
def Obligations.NmiEntryStep : Prop :=
  ∀ s : State,
    s.ppu.status.getLsbD 7 = true → s.ppu.ctrl.getLsbD 7 = true → s.ppu.nmiEligible = true → s.nmiServiced = false →
    ∃ t : State, step s = .next (runDots 21 t) ∧
      t.pc = peek s 0xFFFB ++ peek s 0xFFFA ∧
      t.a = s.a ∧ t.x = s.x ∧ t.y = s.y ∧ t.sp = s.sp - 3 ∧
      t.flags = { s.flags with i := true } ∧
      t.nmiServiced = true ∧ t.cycles = 7 ∧ t.totalCycle = s.totalCycle + 7 ∧
      t.ppu = s.ppu ∧ t.params = s.params ∧ t.inputReads = s.inputReads ∧
      ∀ k : Nat, t.cpuMem.read k =
        if k = 0x100 + s.sp.toNat then hi8 s.pc
        else if k = 0x100 + (s.sp - 1).toNat then lo8 s.pc
        else if k = 0x100 + (s.sp - 2).toNat then statusByte s.flags
        else s.cpuMem.read k

/-- Rules R6, R47, R610, R611: every completed step consists of a CPU part, which leaves the dot counters where they are,
and then exactly three dots for each cycle; the cycles go into `total_cycle`; a step costs at least 1 and at most 521. -/
def Obligations.StepPacesThePpu : Prop :=
  ∀ s t : State, step s = .next t →
    ∃ u : State, t = runDots (3 * u.cycles) u ∧
      u.totalCycle = s.totalCycle + u.cycles ∧ 1 ≤ u.cycles ∧ u.cycles ≤ 521 ∧
      u.ppu.cycle = s.ppu.cycle ∧ u.ppu.scanline = s.ppu.scanline ∧ u.ppu.evenFrame = s.ppu.evenFrame ∧
      t.cycles = u.cycles ∧ t.totalCycle = u.totalCycle

/-! ### Reset and invariants -/

/-- Rules R70, R600 (the spec's decision D5): the state after reset, for every launch image; rule R70's table leaves OAM to
the model, which takes it as a launch parameter. -/
def Obligations.ResetState : Prop :=
  ∀ l : Launch,
    (State.launch l).pc = l.cpuImage.read 0xFFFD ++ l.cpuImage.read 0xFFFC ∧
    (State.launch l).sp = 0xFD ∧
    (State.launch l).a = 0 ∧ (State.launch l).x = 0 ∧ (State.launch l).y = 0 ∧
    (State.launch l).flags = { c := false, z := false, i := true, d := false, b := false, v := false, n := false } ∧
    (State.launch l).totalCycle = 0 ∧ (State.launch l).nmiServiced = false ∧
    (State.launch l).cpuMem = l.cpuImage ∧ (State.launch l).ppu.mem = l.ppuImage ∧
    (State.launch l).ppu.mirroring = l.mirroring ∧
    (State.launch l).ppu.ctrl = 0 ∧ (State.launch l).ppu.mask = 0 ∧ (State.launch l).ppu.status = 0 ∧
    (State.launch l).ppu.v = 0 ∧ (State.launch l).ppu.t = 0 ∧ (State.launch l).ppu.fineX = 0 ∧
    (State.launch l).ppu.w = false ∧ (State.launch l).ppu.oamAddr = 0 ∧ (State.launch l).ppu.readBuffer = 0 ∧
    (State.launch l).ppu.cycle = 0 ∧ (State.launch l).ppu.scanline = 0 ∧ (State.launch l).ppu.evenFrame = true ∧
    (State.launch l).ppu.nmiSuppress = false ∧ (State.launch l).ppu.nmiEligible = false ∧
    (∀ k : Nat, (State.launch l).ppu.secOamRead k = 0xFF) ∧
    (∀ col : Nat, (State.launch l).ppu.spriteAt col =
      { color := 0, palette := 0, sprite0 := false, priority := false }) ∧
    (State.launch l).ppu.eval =
      { n := 0, m := 0, count := 0, mode := .done, latch := 0, sprite0 := false, fetchCount := 0,
        fetchSprite0 := false } ∧
    (State.launch l).ppu.bgQueue = [] ∧
    (State.launch l).ppu.ntByte = 0 ∧ (State.launch l).ppu.atBits = 0 ∧
    (State.launch l).ppu.patLo = 0 ∧ (State.launch l).ppu.patHi = 0

/-- The machine's invariant holds after reset of every launch whose images are in canonical form, and at
`State.reset`. -/
def Obligations.ResetMeetsTheInvariant : Prop :=
  (∀ l : Launch, l.cpuImage.wf 0x10000 = true → l.ppuImage.wf 0x4000 = true → l.oam.wf 256 = true →
    (State.launch l).Inv ∧ QueueBounded (State.launch l)) ∧
  State.reset.Inv ∧ QueueBounded State.reset

/-- From every state that meets the invariant, a step answers a state that meets it: canonical memories, counters in range,
PPUSTATUS bits 4:0 clear, the live break flag clear, at most eight sprites, an NMI latch or eligibility only while vblank is
set. -/
def Obligations.StepKeepsTheInvariant : Prop :=
  ∀ s t : State, s.Inv → step s = .next t → t.Inv

/-- Rules R65, R452: the background queue stays within the bound of its position (at most 16 entries at a dot boundary of a
visible line) across every step. -/
def Obligations.StepKeepsTheQueueBounded : Prop :=
  ∀ s t : State, QueueBounded s → step s = .next t → QueueBounded t

/-- Rule R41: reset clears the live break flag, no step writes it, and while it is 0 the status byte has bit 4 = 0. -/
def Obligations.LiveBreakFlagIsNeverWritten : Prop :=
  (∀ l : Launch, (State.launch l).flags.b = false) ∧
  (∀ s t : State, step s = .next t → t.flags.b = s.flags.b) ∧
  (∀ f : Flags, f.b = false → (statusByte f).getLsbD 4 = false)

/-- Rules R8, R10, R600: the mirroring mode and the open parameters are fixed for the run. -/
def Obligations.LaunchParametersAreFixed : Prop :=
  ∀ s t : State, step s = .next t → t.params = s.params ∧ t.ppu.mirroring = s.ppu.mirroring

/-- Rules R94, R106, R550: a step stops only by the two refusals the spec asks for, an instruction only by the DMA one, and
then only with a write to 0x4014 (a store of the register, or a read-modify-write). -/
def Obligations.StopsOnlyWhereTheSpecRefuses : Prop :=
  (∀ (s : State) (r : Refusal), step s = .refused r → r = .fetchFromPort ∨ r = .dmaFromPort) ∧
  (∀ (s : State) (i : Instr) (r : Refusal), exec i s = .refused r →
    r = .dmaFromPort ∧
    ∃ m : MemOperand, (effAddr m s).ea = 0x4014 ∧
      (i = .sta m ∨ i = .stx m ∨ i = .sty m ∨ i = .inc m ∨ i = .dec m ∨
        i = .asl (.mem m) ∨ i = .lsr (.mem m) ∨ i = .rol (.mem m) ∨ i = .ror (.mem m)))

/-- Rules R113, R407, R573: dots change no CPU state but the NMI latch, which they can only clear; they never write the
PPU's memory, primary OAM, or the registers that only the ports write. -/
def Obligations.DotsLeaveCpuAndPortStateAlone : Prop :=
  ∀ (n : Nat) (s : State),
    SameRegisters s (runDots n s) ∧ (runDots n s).flags = s.flags ∧ (runDots n s).pc = s.pc ∧
    (runDots n s).cpuMem = s.cpuMem ∧ (runDots n s).totalCycle = s.totalCycle ∧
    (runDots n s).cycles = s.cycles ∧ (runDots n s).inputReads = s.inputReads ∧
    ((runDots n s).nmiServiced = true → s.nmiServiced = true) ∧
    (runDots n s).ppu.mem = s.ppu.mem ∧ (runDots n s).ppu.oam = s.ppu.oam ∧
    (runDots n s).ppu.t = s.ppu.t ∧ (runDots n s).ppu.fineX = s.ppu.fineX ∧ (runDots n s).ppu.w = s.ppu.w ∧
    (runDots n s).ppu.ctrl = s.ppu.ctrl ∧ (runDots n s).ppu.mask = s.ppu.mask ∧
    (runDots n s).ppu.oamAddr = s.ppu.oamAddr ∧ (runDots n s).ppu.readBuffer = s.ppu.readBuffer

/-! ### The CPU bus -/

/-- Rule R83 (with the ranges of R80): the four RAM windows reach the same 0x800 cells, by a bus read and by a peek; a byte
written through one is read through each, and no other byte of memory changes. -/
def Obligations.RamWindowsShareTheirCells : Prop :=
  ∀ (s : State) (a : Word) (v : Byte), a.toNat < 0x2000 →
    memRead a s = (s.cpuMem.read (a.toNat % 0x800), s) ∧ peek s a = s.cpuMem.read (a.toNat % 0x800) ∧
    ∃ t : State, memWrite a v s = .next t ∧
      (∀ b : Word, b.toNat < 0x2000 → b.toNat % 0x800 = a.toNat % 0x800 → memRead b t = (v, t)) ∧
      (∀ b : Word, b.toNat < 0x2000 → b.toNat % 0x800 ≠ a.toNat % 0x800 → memRead b t = ((memRead b s).1, t)) ∧
      (∀ b : Word, 0x4018 ≤ b.toNat → memRead b t = ((memRead b s).1, t)) ∧
      t = { s with cpuMem := t.cpuMem }

/-- Rules R85, R86: above the ports a bus read and a peek give the cell of the flat array, and a write stores, but for
0x8000..0xFFFF when the policy is to discard. -/
def Obligations.FlatMemoryAboveThePorts : Prop :=
  ∀ (s : State) (a : Word) (v : Byte), 0x4018 ≤ a.toNat →
    memRead a s = (s.cpuMem.read a.toNat, s) ∧ peek s a = s.cpuMem.read a.toNat ∧
    ∃ t : State, memWrite a v s = .next t ∧
      (∀ k : Nat, t.cpuMem.read k =
        if k = a.toNat ∧ (s.params.romWritePolicy = .store ∨ a.toNat < 0x8000) then v else s.cpuMem.read k) ∧
      t = { s with cpuMem := t.cpuMem }

/-- Rules R93, R97: absent ports and write-only PPU ports answer the open value and have no side effect; writes to absent
ports and to PPUSTATUS change nothing. It holds for every value of the open parameter. -/
def Obligations.AbsentPortsHaveNoEffect : Prop :=
  ∀ (s : State) (a : Word),
    (0x4000 ≤ a.toNat → a.toNat ≤ 0x4017 → a.toNat ≠ 0x4016 → memRead a s = (Config.ioReadValue a, s)) ∧
    (0x2000 ≤ a.toNat → a.toNat ≤ 0x3FFF →
      a.toNat % 8 = 0 ∨ a.toNat % 8 = 1 ∨ a.toNat % 8 = 3 ∨ a.toNat % 8 = 5 ∨ a.toNat % 8 = 6 →
      memRead a s = (Config.ioReadValue a, s)) ∧
    (∀ v : Byte, 0x4000 ≤ a.toNat → a.toNat ≤ 0x4017 → a.toNat ≠ 0x4014 → a.toNat ≠ 0x4016 →
      memWrite a v s = .next s) ∧
    (∀ v : Byte, 0x2000 ≤ a.toNat → a.toNat ≤ 0x3FFF → a.toNat % 8 = 2 → memWrite a v s = .next s)

/-- Rules R94, R95: a write to 0x4014 copies the page into OAM in order, leaves `oam_addr` alone and costs 513 or 514
cycles by the parity of `total_cycle`; a source page in 0x20..0x40 is refused. -/
def Obligations.OamDmaCopiesThePage : Prop :=
  ∀ (s : State) (page : Byte),
    (0x20 ≤ page.toNat ∧ page.toNat ≤ 0x40 → memWrite 0x4014 page s = .refused .dmaFromPort) ∧
    (¬ (0x20 ≤ page.toNat ∧ page.toNat ≤ 0x40) →
      ∃ t : State, memWrite 0x4014 page s = .next t ∧
        (∀ i : Nat, i < 256 → t.ppu.oam.read i = (memRead (BitVec.ofNat 16 (page.toNat * 256 + i)) s).1) ∧
        t.cycles = s.cycles + (if s.totalCycle % 2 = 0 then 513 else 514) ∧
        t = { s with ppu := { s.ppu with oam := t.ppu.oam }, cycles := t.cycles })

/-- Rule R96: a write to 0x4016 emits startPolling or stopPolling by bit 0; a read takes one answer of the input source and
returns 0x01 or 0x00. It holds for every sequence of answers. -/
def Obligations.ControllerPort : Prop :=
  ∀ (s : State) (v : Byte),
    memWrite 0x4016 v s =
      .next { s with events := (if v.getLsbD 0 then .startPolling else .stopPolling) :: s.events } ∧
    memRead 0x4016 s =
      (if Config.inputAnswer s.inputReads then 0x01 else 0x00,
        { s with inputReads := s.inputReads + 1, events := .readInput (Config.inputAnswer s.inputReads) :: s.events })

/-! ### The PPU's decoder and ports -/

/-- Rules R107, R110, R111, R112: the PPU address space: which addresses share a cell and which do not, and a read after a
write. -/
def Obligations.PpuAddressMirrors : Prop :=
  ∀ (p : Ppu) (a : Word),
    p.read (a &&& 0x3FFF) = p.read a ∧
    (a.toNat < 0x2000 → p.read a = p.mem.read a.toNat) ∧
    (0x3000 ≤ a.toNat → a.toNat < 0x3F00 → p.read a = p.read (a - 0x1000)) ∧
    (p.mirroring = .vertical → 0x2000 ≤ a.toNat → a.toNat < 0x2800 → p.read (a + 0x800) = p.read a) ∧
    (p.mirroring = .horizontal → 0x2000 ≤ a.toNat → a.toNat < 0x2C00 → a.toNat % 0x800 < 0x400 →
      p.read (a + 0x400) = p.read a) ∧
    (0x3F00 ≤ a.toNat → a.toNat < 0x3FE0 → p.read (a + 0x20) = p.read a) ∧
    (0x3F00 ≤ a.toNat → a.toNat < 0x3F10 → a.toNat % 4 = 0 → p.read (a + 0x10) = p.read a) ∧
    (∀ (b : Word) (v : Byte), (p.write a v).read b =
      if ppuCell p.mirroring b = ppuCell p.mirroring a then v else p.read b) ∧
    (∀ b : Word, a.toNat < 0x2000 → b.toNat < 0x4000 →
      (ppuCell p.mirroring a = ppuCell p.mirroring b ↔ a = b)) ∧
    (∀ b : Word, 0x2000 ≤ a.toNat → a.toNat < 0x3000 → 0x2000 ≤ b.toNat → b.toNat < 0x3000 →
      (p.mirroring = .vertical →
        (ppuCell p.mirroring a = ppuCell p.mirroring b ↔ a.toNat % 0x800 = b.toNat % 0x800)) ∧
      (p.mirroring = .horizontal →
        (ppuCell p.mirroring a = ppuCell p.mirroring b ↔
          a.toNat / 0x800 = b.toNat / 0x800 ∧ a.toNat % 0x400 = b.toNat % 0x400))) ∧
    (∀ b : Word, 0x2000 ≤ a.toNat → a.toNat < 0x3F00 → 0x3F00 ≤ b.toNat → b.toNat < 0x4000 →
      ppuCell p.mirroring a ≠ ppuCell p.mirroring b) ∧
    (∀ b : Word, 0x3F00 ≤ a.toNat → a.toNat < 0x4000 → 0x3F00 ≤ b.toNat → b.toNat < 0x4000 →
      (ppuCell p.mirroring a = ppuCell p.mirroring b ↔
        a.toNat % 32 = b.toNat % 32 ∨ a.toNat % 4 = 0 ∧ b.toNat % 4 = 0 ∧ a.toNat % 16 = b.toNat % 16))

/-- Rule R364: the PPUSTATUS read, through every address of port 2. -/
def Obligations.StatusPortRead : Prop :=
  ∀ (s : State) (a : Word), 0x2000 ≤ a.toNat → a.toNat ≤ 0x3FFF → a.toNat % 8 = 2 →
    memRead a s = (s.ppu.status,
      { s with
        nmiServiced := false
        ppu := { s.ppu with
          status := s.ppu.status &&& 0x7F, nmiEligible := false, w := false,
          nmiSuppress := if s.ppu.scanline = 240 ∧ s.ppu.cycle = 340 then true else s.ppu.nmiSuppress } })

/-- Rules R362, R363: PPUCTRL stores all eight bits and copies bits 1:0 into `t[11:10]`; PPUMASK stores. -/
def Obligations.ControlAndMaskWrites : Prop :=
  ∀ (s : State) (a : Word) (v : Byte), 0x2000 ≤ a.toNat → a.toNat ≤ 0x3FFF →
    (a.toNat % 8 = 0 → ∃ t : State, memWrite a v s = .next t ∧
      (∀ i : Nat, t.ppu.t.getLsbD i =
        if i = 10 then v.getLsbD 0 else if i = 11 then v.getLsbD 1 else s.ppu.t.getLsbD i) ∧
      t = { s with ppu := { s.ppu with ctrl := v, t := t.ppu.t } }) ∧
    (a.toNat % 8 = 1 → memWrite a v s = .next { s with ppu := { s.ppu with mask := v } })

/-- Rules R365, R366, R367: OAMADDR and OAMDATA. -/
def Obligations.OamPorts : Prop :=
  ∀ (s : State) (a : Word) (v : Byte), 0x2000 ≤ a.toNat → a.toNat ≤ 0x3FFF →
    (a.toNat % 8 = 3 → memWrite a v s = .next { s with ppu := { s.ppu with oamAddr := v } }) ∧
    (a.toNat % 8 = 4 → ∃ t : State, memWrite a v s = .next t ∧
      (∀ k : Nat, t.ppu.oam.read k = if k = s.ppu.oamAddr.toNat then v else s.ppu.oam.read k) ∧
      t = { s with ppu := { s.ppu with oam := t.ppu.oam, oamAddr := s.ppu.oamAddr + 1 } }) ∧
    (a.toNat % 8 = 4 → memRead a s =
      (if (s.ppu.scanline ≤ 239 ∨ s.ppu.scanline = 261) ∧ 1 ≤ s.ppu.cycle ∧ s.ppu.cycle ≤ 64 then 0xFF
        else s.ppu.oam.read s.ppu.oamAddr.toNat, s))

/-- Rules R368, R369, R370: the two-step PPUSCROLL and PPUADDR writes, bit by bit. -/
def Obligations.ScrollAndAddressWrites : Prop :=
  ∀ (s : State) (a : Word) (v : Byte), 0x2000 ≤ a.toNat → a.toNat ≤ 0x3FFF →
    (a.toNat % 8 = 5 → s.ppu.w = false → ∃ t : State, memWrite a v s = .next t ∧
      (∀ i : Nat, i < 15 → t.ppu.t.getLsbD i = if i < 5 then v.getLsbD (i + 3) else s.ppu.t.getLsbD i) ∧
      (∀ i : Nat, i < 3 → t.ppu.fineX.getLsbD i = v.getLsbD i) ∧
      t = { s with ppu := { s.ppu with t := t.ppu.t, fineX := t.ppu.fineX, w := true } }) ∧
    (a.toNat % 8 = 5 → s.ppu.w = true → ∃ t : State, memWrite a v s = .next t ∧
      (∀ i : Nat, i < 15 → t.ppu.t.getLsbD i =
        if 12 ≤ i then v.getLsbD (i - 12) else if 5 ≤ i ∧ i ≤ 9 then v.getLsbD (i - 2) else s.ppu.t.getLsbD i) ∧
      t = { s with ppu := { s.ppu with t := t.ppu.t, w := false } }) ∧
    (a.toNat % 8 = 6 → s.ppu.w = false → ∃ t : State, memWrite a v s = .next t ∧
      (∀ i : Nat, i < 15 → t.ppu.t.getLsbD i =
        if i = 14 then false else if 8 ≤ i then v.getLsbD (i - 8) else s.ppu.t.getLsbD i) ∧
      t = { s with ppu := { s.ppu with t := t.ppu.t, w := true } }) ∧
    (a.toNat % 8 = 6 → s.ppu.w = true → ∃ t : State, memWrite a v s = .next t ∧
      (∀ i : Nat, i < 15 → t.ppu.t.getLsbD i = if i < 8 then v.getLsbD i else s.ppu.t.getLsbD i) ∧
      t = { s with ppu := { s.ppu with t := t.ppu.t, v := t.ppu.t, w := false } })

/-- Rules R371, R372, R373: PPUDATA reads are delayed by the read buffer below the palette and immediate in it; both accesses
step `v` by 1 or 32 modulo 32768. -/
def Obligations.DataPort : Prop :=
  ∀ (s : State) (a : Word), 0x2000 ≤ a.toNat → a.toNat ≤ 0x3FFF → a.toNat % 8 = 7 →
    (s.ppu.v.toNat % 0x4000 < 0x3F00 →
      (memRead a s).1 = s.ppu.readBuffer ∧
      (memRead a s).2 = { s with ppu := { s.ppu with
        readBuffer := s.ppu.read (BitVec.ofNat 16 (s.ppu.v.toNat % 0x4000)), v := (memRead a s).2.ppu.v } }) ∧
    (0x3F00 ≤ s.ppu.v.toNat % 0x4000 →
      (memRead a s).1 = s.ppu.read (BitVec.ofNat 16 (s.ppu.v.toNat % 0x4000)) ∧
      (memRead a s).2 = { s with ppu := { s.ppu with
        readBuffer := s.ppu.read (BitVec.ofNat 16 (s.ppu.v.toNat % 0x4000 - 0x1000)),
        v := (memRead a s).2.ppu.v } }) ∧
    (memRead a s).2.ppu.v.toNat = (s.ppu.v.toNat + if s.ppu.ctrl.getLsbD 2 then 32 else 1) % 32768 ∧
    (∀ val : Byte, ∃ t : State, memWrite a val s = .next t ∧
      (∀ b : Word, t.ppu.read b =
        if ppuCell s.ppu.mirroring b = ppuCell s.ppu.mirroring (BitVec.ofNat 16 (s.ppu.v.toNat % 0x4000)) then val
        else s.ppu.read b) ∧
      t.ppu.v.toNat = (s.ppu.v.toNat + if s.ppu.ctrl.getLsbD 2 then 32 else 1) % 32768 ∧
      t = { s with ppu := { s.ppu with mem := t.ppu.mem, v := t.ppu.v } })

/-! ### The PPU's dots -/

/-- Rules R405, R449: the vertical and the coarse-X increment of `v`, field by field. -/
def Obligations.IncrementsOfTheScrollRegister : Prop :=
  ∀ v : VramAddr,
    (coarseX (coarseXIncrement v)).toNat = ((coarseX v).toNat + 1) % 32 ∧
    (∀ i : Nat, 5 ≤ i → i < 15 → (coarseXIncrement v).getLsbD i =
      if i = 10 ∧ (coarseX v).toNat = 31 then !v.getLsbD 10 else v.getLsbD i) ∧
    (fineY (verticalIncrement v)).toNat = ((fineY v).toNat + 1) % 8 ∧
    coarseX (verticalIncrement v) = coarseX v ∧
    (verticalIncrement v).getLsbD 10 = v.getLsbD 10 ∧
    (coarseY (verticalIncrement v)).toNat =
      (if (fineY v).toNat < 7 then (coarseY v).toNat
       else if (coarseY v).toNat = 29 ∨ (coarseY v).toNat = 31 then 0 else (coarseY v).toNat + 1) ∧
    (verticalIncrement v).getLsbD 11 =
      (if (fineY v).toNat = 7 ∧ (coarseY v).toNat = 29 then !v.getLsbD 11 else v.getLsbD 11)

/-- Rules R404, R405, R406, R411, R441, R449: the dots of the scroll schedule, and what each leaves in `v`, happen only on
fetch lines and only while rendering is enabled; no other dot changes `v`. -/
def Obligations.ScrollUpdatesOfADot : Prop :=
  ∀ s : State,
    ((239 < s.ppu.scanline ∧ s.ppu.scanline ≠ 261) ∨ (s.ppu.mask.getLsbD 3 = false ∧ s.ppu.mask.getLsbD 4 = false) →
      (ppuTick s).ppu.v = s.ppu.v) ∧
    ((s.ppu.scanline ≤ 239 ∨ s.ppu.scanline = 261) → s.ppu.mask.getLsbD 3 = true ∨ s.ppu.mask.getLsbD 4 = true →
      (s.ppu.cycle = 256 → (ppuTick s).ppu.v = verticalIncrement (coarseXIncrement s.ppu.v)) ∧
      (s.ppu.cycle % 8 = 0 → 8 ≤ s.ppu.cycle → s.ppu.cycle < 256 →
        (ppuTick s).ppu.v = coarseXIncrement s.ppu.v) ∧
      (s.ppu.cycle = 328 ∨ s.ppu.cycle = 336 → (ppuTick s).ppu.v = coarseXIncrement s.ppu.v) ∧
      (s.ppu.cycle = 257 → ∀ i : Nat, (ppuTick s).ppu.v.getLsbD i =
        if i ≤ 4 ∨ i = 10 then s.ppu.t.getLsbD i else s.ppu.v.getLsbD i) ∧
      (s.ppu.scanline = 261 → 280 ≤ s.ppu.cycle → s.ppu.cycle ≤ 304 → ∀ i : Nat, (ppuTick s).ppu.v.getLsbD i =
        if 5 ≤ i ∧ i ≠ 10 then s.ppu.t.getLsbD i else s.ppu.v.getLsbD i) ∧
      (¬ (s.ppu.cycle % 8 = 0 ∧ 8 ≤ s.ppu.cycle ∧ s.ppu.cycle ≤ 256) →
        s.ppu.cycle ≠ 257 → s.ppu.cycle ≠ 328 → s.ppu.cycle ≠ 336 →
        ¬ (s.ppu.scanline = 261 ∧ 280 ≤ s.ppu.cycle ∧ s.ppu.cycle ≤ 304) → (ppuTick s).ppu.v = s.ppu.v))

/-- Rules R408, R409, R410: the dot (241, 1) sets vblank, consumes the suppression or grants eligibility, and emits the
frame strobe in order; the dot (261, 1) clears PPUSTATUS and both NMI bits; neither changes anything else but the dot
counter. -/
def Obligations.VblankAndPreRenderDots : Prop :=
  ∀ s : State, s.ppu.cycle = 1 →
    (s.ppu.scanline = 241 →
      ppuTick s = { s with
        ppu := { s.ppu with
          status := s.ppu.status ||| 0x80
          nmiEligible := if s.ppu.nmiSuppress then s.ppu.nmiEligible else true
          nmiSuppress := false
          cycle := 2 }
        events := [.resetRead, .clearBuffer, .updateScreen] ++ s.events }) ∧
    (s.ppu.scanline = 261 →
      ppuTick s = { s with
        nmiServiced := false
        ppu := { s.ppu with status := 0, nmiEligible := false, cycle := 2 } })

/-- Rules R401, R412: the advance of the counters, with the odd-frame skip. -/
def Obligations.DotCounters : Prop :=
  ∀ s : State, s.ppu.cycle ≤ 340 → s.ppu.scanline ≤ 261 →
    (s.ppu.scanline = 261 → s.ppu.cycle = 339 → s.ppu.evenFrame = false →
      s.ppu.mask.getLsbD 3 = true ∨ s.ppu.mask.getLsbD 4 = true →
      (ppuTick s).ppu.scanline = 0 ∧ (ppuTick s).ppu.cycle = 0 ∧ (ppuTick s).ppu.evenFrame = true) ∧
    (s.ppu.scanline = 261 → s.ppu.cycle = 340 →
      (ppuTick s).ppu.scanline = 0 ∧ (ppuTick s).ppu.cycle = 0 ∧ (ppuTick s).ppu.evenFrame = !s.ppu.evenFrame) ∧
    (s.ppu.scanline < 261 → s.ppu.cycle = 340 →
      (ppuTick s).ppu.scanline = s.ppu.scanline + 1 ∧ (ppuTick s).ppu.cycle = 0 ∧
        (ppuTick s).ppu.evenFrame = s.ppu.evenFrame) ∧
    (s.ppu.cycle < 340 →
      ¬ (s.ppu.scanline = 261 ∧ s.ppu.cycle = 339 ∧ s.ppu.evenFrame = false ∧
        (s.ppu.mask.getLsbD 3 = true ∨ s.ppu.mask.getLsbD 4 = true)) →
      (ppuTick s).ppu.scanline = s.ppu.scanline ∧ (ppuTick s).ppu.cycle = s.ppu.cycle + 1 ∧
        (ppuTick s).ppu.evenFrame = s.ppu.evenFrame)

/-- Rule R413: a frame from (0, 0) is 89342 dots when it is even or rendering is off, and 89341 when it is odd and rendering
is on; it ends at (0, 0) with the other parity, and no shorter run of dots returns there. -/
def Obligations.FrameLength : Prop :=
  ∀ (s : State) (len : Nat), s.ppu.scanline = 0 → s.ppu.cycle = 0 →
    len = (if s.ppu.evenFrame = false ∧ (s.ppu.mask.getLsbD 3 = true ∨ s.ppu.mask.getLsbD 4 = true) then 89341
      else 89342) →
    ((runDots len s).ppu.scanline = 0 ∧ (runDots len s).ppu.cycle = 0 ∧
      (runDots len s).ppu.evenFrame = !s.ppu.evenFrame) ∧
    ∀ n : Nat, n < len → dotIndex (runDots n s) = n

/-- Rules R441, R443, R444, R445, R446: a tile fetch pushes eight values, the leftmost pixel first, from the nametable byte,
the attribute quadrant and the two pattern bytes; no other dot fetches. -/
def Obligations.TileFetch : Prop :=
  ∀ p : Ppu,
    ((p.scanline ≤ 239 ∨ p.scanline = 261) → p.cycle % 8 = 0 →
      8 ≤ p.cycle ∧ p.cycle ≤ 256 ∨ 328 ≤ p.cycle ∧ p.cycle ≤ 336 →
      let v := p.v.toNat
      let nt := (p.read (BitVec.ofNat 16 (0x2000 + v % 0x1000))).toNat
      let attr := (p.read (BitVec.ofNat 16
        (0x23C0 + v / 0x400 % 4 * 0x400 + v / 128 % 8 * 8 + v / 4 % 8))).toNat
      let quadrant := attr / 4 ^ (v / 64 % 2 * 2 + v / 2 % 2) % 4
      let row := (if p.ctrl.getLsbD 4 then 0x1000 else 0) + nt * 16 + v / 0x1000
      let lo := p.read (BitVec.ofNat 16 row)
      let hi := p.read (BitVec.ofNat 16 (row + 8))
      (backgroundDot p).bgQueue = p.bgQueue ++ (List.range 8).map fun k =>
        BitVec.ofNat 4 (4 * quadrant + 2 * (hi.getLsbD (7 - k)).toNat + (lo.getLsbD (7 - k)).toNat)) ∧
    ((239 < p.scanline ∧ p.scanline ≠ 261) ∨ p.cycle % 8 ≠ 0 ∨
      (p.cycle < 8 ∨ 256 < p.cycle ∧ p.cycle < 328 ∨ 336 < p.cycle) → backgroundDot p = p)

/-- Rule R476: from cycle 0 of a fetch line, the clear window leaves all 32 bytes of secondary OAM at 0xFF, and primary OAM
as it was. -/
def Obligations.SecondaryOamIsCleared : Prop :=
  ∀ s : State, (s.ppu.scanline ≤ 239 ∨ s.ppu.scanline = 261) → s.ppu.cycle = 0 →
    (∀ k : Nat, k < 32 → (runDots 65 s).ppu.secOamRead k = 0xFF) ∧ (runDots 65 s).ppu.oam = s.ppu.oam

/-- Rules R477, R478, R481, R482, R483, R487, R490: what each dot of the sprite evaluation does, mode by mode, to the evaluator,
to secondary OAM and to the overflow bit; the latch and the buffer clear of cycle 257; and that a dot sets the overflow bit
only in mode OVF, at an even evaluation cycle of a fetch line, on a byte in range of the line. -/
def Obligations.OverflowFlagSource : Prop :=
  (∀ s : State, s.ppu.status.getLsbD 5 = false → (ppuTick s).ppu.status.getLsbD 5 = true →
    (s.ppu.scanline ≤ 239 ∨ s.ppu.scanline = 261) ∧ 65 ≤ s.ppu.cycle ∧ s.ppu.cycle ≤ 256 ∧ s.ppu.cycle % 2 = 0 ∧
    s.ppu.eval.mode = .ovf ∧ s.ppu.eval.latch.toNat ≤ s.ppu.scanline ∧
    s.ppu.scanline < s.ppu.eval.latch.toNat + (if s.ppu.ctrl.getLsbD 5 then 16 else 8)) ∧
  ∀ s : State,
    let p := s.ppu
    let e := p.eval
    let q := (ppuTick s).ppu
    let inRange := e.latch.toNat ≤ p.scanline ∧ p.scanline < e.latch.toNat + (if p.ctrl.getLsbD 5 then 16 else 8)
    ((p.scanline ≤ 239 ∨ p.scanline = 261) → 65 ≤ p.cycle → p.cycle ≤ 256 →
      (p.cycle = 65 →
        q.eval = { e with
          n := 0, m := 0, count := 0, sprite0 := false, mode := .y, latch := p.oam.read 0 } ∧ q.secOam = p.secOam) ∧
      (p.cycle ≠ 65 → p.cycle % 2 = 1 →
        q.eval = { e with latch := p.oam.read (4 * e.n.toNat + e.m.toNat) } ∧ q.secOam = p.secOam) ∧
      (p.cycle % 2 = 0 → e.mode = .y → inRange →
        (∀ k : Nat, q.secOamRead k = if k = 4 * e.count then e.latch else p.secOamRead k) ∧
        q.eval = { e with sprite0 := e.sprite0 || decide (e.n.toNat = 0), m := 1, mode := .rest }) ∧
      (p.cycle % 2 = 0 → e.mode = .y → ¬ inRange →
        q.secOam = p.secOam ∧
        q.eval = { e with
          n := e.n + 1, mode := if e.n.toNat = 63 then .done else if e.count = 8 then .ovf else .y }) ∧
      (p.cycle % 2 = 0 → e.mode = .rest → e.m.toNat < 3 →
        (∀ k : Nat, q.secOamRead k = if k = 4 * e.count + e.m.toNat then e.latch else p.secOamRead k) ∧
        q.eval = { e with m := e.m + 1 }) ∧
      (p.cycle % 2 = 0 → e.mode = .rest → e.m.toNat = 3 →
        (∀ k : Nat, q.secOamRead k = if k = 4 * e.count + 3 then e.latch else p.secOamRead k) ∧
        q.eval = { e with
          m := 0, count := e.count + 1, n := e.n + 1
          mode := if e.n.toNat = 63 then .done else if e.count + 1 = 8 then .ovf else .y }) ∧
      (p.cycle % 2 = 0 → e.mode = .ovf → inRange →
        q.secOam = p.secOam ∧ q.status.getLsbD 5 = true ∧ q.eval = { e with mode := .done }) ∧
      (p.cycle % 2 = 0 → e.mode = .ovf → ¬ inRange →
        q.secOam = p.secOam ∧
        q.eval = { e with
          m := e.m + 1, n := e.n + 1, mode := if e.n.toNat = 63 then .done else .ovf }) ∧
      (p.cycle % 2 = 0 → e.mode = .done → q.secOam = p.secOam ∧ q.eval = e)) ∧
    ((p.scanline ≤ 239 ∨ p.scanline = 261) → p.cycle = 257 →
      q.eval = { e with fetchCount := e.count, fetchSprite0 := e.sprite0 } ∧ q.secOam = p.secOam ∧
      ∀ col : Nat, q.spriteAt col = { color := 0, palette := 0, sprite0 := false, priority := false }) ∧
    (¬ ((p.scanline ≤ 239 ∨ p.scanline = 261) ∧ 65 ≤ p.cycle ∧ p.cycle ≤ 257) → q.eval = e)

/-- Rules R490, R491, R495, R496, R497: a sprite fetch gives each of its sprite's eight columns inside the line that is still
unwritten the opaque pixel of the addressed pattern row, with palette, sprite-0 mark and priority; it never changes a written
column nor a column outside the eight, skips a slot past the count, and changes nothing but the buffer. The fetch of slot `k`
is the dot of cycle `264 + 8k` of a fetch line, and but for the clear at cycle 257 no other dot changes the buffer. -/
def Obligations.SpriteFetchKeepsWrittenColumns : Prop :=
  (∀ (k : Nat) (p : Ppu),
    (p.eval.fetchCount ≤ k → fetchSlot k p = p) ∧
    fetchSlot k p = { p with spriteBuf := (fetchSlot k p).spriteBuf } ∧
    (∀ col : Nat, (p.spriteAt col).color ≠ 0 → (fetchSlot k p).spriteAt col = p.spriteAt col) ∧
    (∀ col : Nat, col < (p.secOamRead (4 * k + 3)).toNat ∨ (p.secOamRead (4 * k + 3)).toNat + 7 < col ∨ 255 < col →
      (fetchSlot k p).spriteAt col = p.spriteAt col)) ∧
  (∀ (k j : Nat) (p : Ppu), k < p.eval.fetchCount → j < 8 → (p.secOamRead (4 * k + 3)).toNat + j ≤ 255 →
    let y := (p.secOamRead (4 * k)).toNat
    let tile : Nat := (p.secOamRead (4 * k + 1)).toNat
    let attr := p.secOamRead (4 * k + 2)
    let col : Nat := (p.secOamRead (4 * k + 3)).toNat + j
    let h : Nat := if p.ctrl.getLsbD 5 then 16 else 8
    let above : Nat := (((p.scanline : Int) - (y : Int)) % (h : Int)).toNat
    let row : Nat := if attr.getLsbD 7 then h - 1 - above else above
    let addr : Nat :=
      if p.ctrl.getLsbD 5 then tile % 2 * 0x1000 + (tile / 2 * 2 + row / 8) * 16 + row % 8
      else (if p.ctrl.getLsbD 3 then 0x1000 else 0) + tile * 16 + row
    let b : Nat := if attr.getLsbD 6 then j else 7 - j
    let color : Nat :=
      2 * ((p.read (BitVec.ofNat 16 (addr + 8))).getLsbD b).toNat + ((p.read (BitVec.ofNat 16 addr)).getLsbD b).toNat
    (fetchSlot k p).spriteAt col =
      if color ≠ 0 ∧ (p.spriteAt col).color = 0 then
        { color := BitVec.ofNat 2 color, palette := BitVec.ofNat 2 (attr.toNat % 4),
          sprite0 := decide (k = 0) && p.eval.fetchSprite0, priority := attr.getLsbD 5 }
      else p.spriteAt col) ∧
  (∀ s : State,
    (∀ k : Nat, k < 8 → (s.ppu.scanline ≤ 239 ∨ s.ppu.scanline = 261) → s.ppu.cycle = 264 + 8 * k →
      (ppuTick s).ppu.spriteBuf = (fetchSlot k s.ppu).spriteBuf) ∧
    ((239 < s.ppu.scanline ∧ s.ppu.scanline ≠ 261) ∨
        s.ppu.cycle ≠ 257 ∧ ¬ (264 ≤ s.ppu.cycle ∧ s.ppu.cycle ≤ 320 ∧ s.ppu.cycle % 8 = 0) →
      (ppuTick s).ppu.spriteBuf = s.ppu.spriteBuf))

/-- Rules R442, R450, R451, R452, R520 to R525: a composed pixel shows the priority table's choice after the layer enables and
the left-column clip, and sprite-0 hit is raised exactly when both layers are opaque and the sprite pixel is sprite 0's. A dot
at cycles 1..256 of a visible line composes column `cycle - 1`, at cycle 1 from the queue without its first fine-X entries,
and pops one entry before the fetch of the dot pushes; the queue is empty after cycle 256 of a fetch line; no other dot raises
the hit or takes entries from the queue. -/
def Obligations.CompositorPriorityTable : Prop :=
  (∀ (s : State) (col : Nat),
    let p := s.ppu
    let e := p.spriteAt col
    let bg := if p.mask.getLsbD 3 = true ∧ ¬ (col < 8 ∧ p.mask.getLsbD 1 = false) then (p.bgQueue.headD 0).toNat else 0
    let sp := e.color ≠ 0 ∧ p.mask.getLsbD 4 = true ∧ ¬ (col < 8 ∧ p.mask.getLsbD 2 = false)
    let addrBg : Word := BitVec.ofNat 16 (0x3F00 + bg)
    let addrSp : Word := BitVec.ofNat 16 (0x3F10 + 4 * e.palette.toNat + e.color.toNat)
    let u := composePixel col s
    (bg = 0 → ¬ sp → u.events = .drawPixel col p.scanline (p.read 0x3F00) p.mask :: s.events) ∧
    (bg = 0 → sp → u.events = .drawPixel col p.scanline (p.read addrSp) p.mask :: s.events) ∧
    (bg ≠ 0 → ¬ sp → u.events = .drawPixel col p.scanline (p.read addrBg) p.mask :: s.events) ∧
    (bg ≠ 0 → sp → e.priority = false →
      u.events = .drawPixel col p.scanline (p.read addrSp) p.mask :: s.events) ∧
    (bg ≠ 0 → sp → e.priority = true →
      u.events = .drawPixel col p.scanline (p.read addrBg) p.mask :: s.events) ∧
    (∀ i : Nat, u.ppu.status.getLsbD i =
      (p.status.getLsbD i || decide (i = 6 ∧ bg ≠ 0 ∧ sp ∧ e.sprite0 = true))) ∧
    u.ppu.bgQueue = p.bgQueue.tail) ∧
  ∀ s : State,
    (s.ppu.scanline ≤ 239 → 1 ≤ s.ppu.cycle → s.ppu.cycle ≤ 256 →
      let queue := if s.ppu.cycle = 1 then s.ppu.bgQueue.drop s.ppu.fineX.toNat else s.ppu.bgQueue
      let u := composePixel (s.ppu.cycle - 1) { s with ppu := { s.ppu with bgQueue := queue } }
      (ppuTick s).events = u.events ∧ (ppuTick s).ppu.status.getLsbD 6 = u.ppu.status.getLsbD 6 ∧
      (ppuTick s).ppu.bgQueue = if s.ppu.cycle = 256 then [] else (backgroundDot u.ppu).bgQueue) ∧
    (¬ (s.ppu.scanline ≤ 239 ∧ 1 ≤ s.ppu.cycle ∧ s.ppu.cycle ≤ 256) →
      ((ppuTick s).ppu.status.getLsbD 6 = true → s.ppu.status.getLsbD 6 = true) ∧
      (ppuTick s).ppu.bgQueue =
        if s.ppu.scanline = 261 ∧ s.ppu.cycle = 256 then [] else (backgroundDot s.ppu).bgQueue)

/-- Rules R442, R520 to R524, R526, R527: a dot at cycles 1..256 of a visible line emits exactly one pixel, at column
`cycle - 1` and its row, with the byte of the palette address the priority table chooses and the whole mask byte; any other dot
emits no pixel. -/
def Obligations.OnePixelPerVisibleDot : Prop :=
  ∀ s : State,
    (s.ppu.scanline ≤ 239 → 1 ≤ s.ppu.cycle → s.ppu.cycle ≤ 256 →
      let p := s.ppu
      let col := p.cycle - 1
      let e := p.spriteAt col
      let queue := if p.cycle = 1 then p.bgQueue.drop p.fineX.toNat else p.bgQueue
      let bg := if p.mask.getLsbD 3 = true ∧ ¬ (col < 8 ∧ p.mask.getLsbD 1 = false) then (queue.headD 0).toNat else 0
      let sp := e.color ≠ 0 ∧ p.mask.getLsbD 4 = true ∧ ¬ (col < 8 ∧ p.mask.getLsbD 2 = false)
      let addr : Nat :=
        if sp ∧ (bg = 0 ∨ e.priority = false) then 0x3F10 + 4 * e.palette.toNat + e.color.toNat else 0x3F00 + bg
      (ppuTick s).events = .drawPixel col p.scanline (p.read (BitVec.ofNat 16 addr)) p.mask :: s.events) ∧
    (¬ (s.ppu.scanline ≤ 239 ∧ 1 ≤ s.ppu.cycle ∧ s.ppu.cycle ≤ 256) →
      (ppuTick s).events = s.events ∨
      (ppuTick s).events = [.resetRead, .clearBuffer, .updateScreen] ++ s.events)

/-! ### Addressing modes and the penalty -/

/-- Rules R154 to R162, R150: the effective address of every memory mode, and which accesses cross a page. -/
def Obligations.EffectiveAddresses : Prop :=
  ∀ (s : State) (b : Byte) (w : Word),
    ((effAddr (.zp b) s).ea.toNat = b.toNat ∧ (effAddr (.zp b) s).crossed = false) ∧
    ((effAddr (.zpx b) s).ea.toNat = (b.toNat + s.x.toNat) % 256 ∧ (effAddr (.zpx b) s).crossed = false) ∧
    ((effAddr (.zpy b) s).ea.toNat = (b.toNat + s.y.toNat) % 256 ∧ (effAddr (.zpy b) s).crossed = false) ∧
    ((effAddr (.abs w) s).ea = w ∧ (effAddr (.abs w) s).crossed = false) ∧
    ((effAddr (.abx w) s).ea.toNat = (w.toNat + s.x.toNat) % 65536 ∧
      ((effAddr (.abx w) s).crossed = true ↔ w.toNat / 256 ≠ (w.toNat + s.x.toNat) % 65536 / 256)) ∧
    ((effAddr (.aby w) s).ea.toNat = (w.toNat + s.y.toNat) % 65536 ∧
      ((effAddr (.aby w) s).crossed = true ↔ w.toNat / 256 ≠ (w.toNat + s.y.toNat) % 65536 / 256)) ∧
    ((effAddr (.izx b) s).ea.toNat =
        (s.cpuMem.read ((b.toNat + s.x.toNat + 1) % 256)).toNat * 256 +
          (s.cpuMem.read ((b.toNat + s.x.toNat) % 256)).toNat ∧
      (effAddr (.izx b) s).crossed = false) ∧
    (∀ base : Nat, base = (s.cpuMem.read ((b.toNat + 1) % 256)).toNat * 256 + (s.cpuMem.read b.toNat).toNat →
      (effAddr (.izy b) s).ea.toNat = (base + s.y.toNat) % 65536 ∧
      ((effAddr (.izy b) s).crossed = true ↔ base / 256 ≠ (base + s.y.toNat) % 65536 / 256))

/-- Rules R164, R171: the cycles of a read (shown on LDA, LDX and LDY), of a store and of a read-modify-write, mode by mode: a
read that crosses a page pays one more, a store and a read-modify-write pay nothing. -/
def Obligations.PageCrossPenalty : Prop :=
  ∀ (s : State) (b : Byte) (w : Word),
    let cost := fun i : Instr => match exec i s with | .next t => t.cycles - s.cycles | _ => 0
    cost (.lda (.imm b)) = 2 ∧ cost (.lda (.mem (.zp b))) = 3 ∧ cost (.lda (.mem (.zpx b))) = 4 ∧
    cost (.ldx (.mem (.zpy b))) = 4 ∧ cost (.lda (.mem (.abs w))) = 4 ∧ cost (.lda (.mem (.izx b))) = 6 ∧
    cost (.lda (.mem (.abx w))) = (if (w + s.x.setWidth 16) >>> 8 = w >>> 8 then 4 else 5) ∧
    cost (.ldy (.mem (.abx w))) = (if (w + s.x.setWidth 16) >>> 8 = w >>> 8 then 4 else 5) ∧
    cost (.lda (.mem (.aby w))) = (if (w + s.y.setWidth 16) >>> 8 = w >>> 8 then 4 else 5) ∧
    cost (.ldx (.mem (.aby w))) = (if (w + s.y.setWidth 16) >>> 8 = w >>> 8 then 4 else 5) ∧
    cost (.lda (.mem (.izy b))) = (if (effAddr (.izy b) s).crossed then 6 else 5) ∧
    (∀ m : MemOperand, (effAddr m s).ea ≠ 0x4014 →
      cost (.sta m) = (match m with
        | .zp _ => 3 | .zpx _ => 4 | .zpy _ => 4 | .abs _ => 4 | .abx _ => 5 | .aby _ => 5 | .izx _ => 6 | .izy _ => 6) ∧
      (m.inRmw = true → cost (.inc m) = (match m with | .zp _ => 5 | .zpx _ => 6 | .abs _ => 6 | _ => 7)))

/-! ### Loads, stores, transfers -/

/-- Rules R150, R153, R200 to R203: LDA, LDX and LDY complete for every operand in every state: they put the operand into the
register, set Z and N from it and write nothing else of the CPU; an immediate operand is the operand byte, and a memory
operand's read is the bus read of its effective address. -/
def Obligations.LoadsWriteTheirRegister : Prop :=
  (∀ (b : Byte) (s : State), loadOperand (.imm b) s = (b, s)) ∧
  (∀ (m : MemOperand) (s : State),
    loadOperand (.mem m) s = memRead (effAddr m s).ea s ∧ loadMem m s = memRead (effAddr m s).ea s) ∧
  ∀ (o : ReadOperand) (s : State),
    let m := (loadOperand o s).1
    let r := (loadOperand o s).2
    (∃ t, exec (.lda o) s = .next t ∧ t.a = m ∧ t.x = s.x ∧ t.y = s.y ∧ t.sp = s.sp ∧ FlagsNZ m s t ∧
      Advanced (readLength o) (readCost o s) s t ∧ SameMemory s t ∧ SameDevices r t) ∧
    (∃ t, exec (.ldx o) s = .next t ∧ t.a = s.a ∧ t.x = m ∧ t.y = s.y ∧ t.sp = s.sp ∧ FlagsNZ m s t ∧
      Advanced (readLength o) (readCost o s) s t ∧ SameMemory s t ∧ SameDevices r t) ∧
    (∃ t, exec (.ldy o) s = .next t ∧ t.a = s.a ∧ t.x = s.x ∧ t.y = m ∧ t.sp = s.sp ∧ FlagsNZ m s t ∧
      Advanced (readLength o) (readCost o s) s t ∧ SameMemory s t ∧ SameDevices r t)

/-- Rules R200, R204, R205, R206, with R94: STA, STX and STY write the register to the effective address and nothing else of
the CPU; a store to 0x4014 with a port page is refused. -/
def Obligations.StoresWriteTheirRegister : Prop :=
  ∀ (m : MemOperand) (s : State) (i : Instr) (v : Byte),
    (i = .sta m ∧ v = s.a ∨ i = .stx m ∧ v = s.x ∨ i = .sty m ∧ v = s.y) →
    ((effAddr m s).ea = 0x4014 ∧ 0x20 ≤ v.toNat ∧ v.toNat ≤ 0x40 → exec i s = .refused .dmaFromPort) ∧
    (¬ ((effAddr m s).ea = 0x4014 ∧ 0x20 ≤ v.toNat ∧ v.toNat ≤ 0x40) →
      ∃ t u, memWrite (effAddr m s).ea v s = .next u ∧ exec i s = .next t ∧
        t = { u with pc := s.pc + BitVec.ofNat 16 (memLength m), cycles := u.cycles + writeCycles m } ∧
        SameRegisters s t ∧ t.flags = s.flags ∧ (isPort (effAddr m s).ea = true → SameMemory s t)) ∧
    (isPort (effAddr m s).ea = false →
      ∃ t, exec i s = .next t ∧ SameRegisters s t ∧ t.flags = s.flags ∧ SameDevices s t ∧
        Advanced (memLength m) (writeCycles m) s t ∧
        ∀ k : Nat, t.cpuMem.read k =
          if k = codeCell (effAddr m s).ea ∧ ¬ (s.params.romWritePolicy = .discard ∧ 0x8000 ≤ k) then v
          else s.cpuMem.read k)

/-- Rules R207 to R212: the six transfers, with their encodings, 2 cycles and 1 byte each; TXS writes no flag. -/
def Obligations.Transfers : Prop :=
  (encode .tax = [0xAA] ∧ encode .tay = [0xA8] ∧ encode .txa = [0x8A] ∧ encode .tya = [0x98] ∧
    encode .tsx = [0xBA] ∧ encode .txs = [0x9A]) ∧
  ∀ s : State,
    (∃ t, exec .tax s = .next t ∧ t.a = s.a ∧ t.x = s.a ∧ t.y = s.y ∧ t.sp = s.sp ∧ FlagsNZ s.a s t ∧
      Advanced 1 2 s t ∧ SameMemory s t ∧ SameDevices s t) ∧
    (∃ t, exec .tay s = .next t ∧ t.a = s.a ∧ t.x = s.x ∧ t.y = s.a ∧ t.sp = s.sp ∧ FlagsNZ s.a s t ∧
      Advanced 1 2 s t ∧ SameMemory s t ∧ SameDevices s t) ∧
    (∃ t, exec .txa s = .next t ∧ t.a = s.x ∧ t.x = s.x ∧ t.y = s.y ∧ t.sp = s.sp ∧ FlagsNZ s.x s t ∧
      Advanced 1 2 s t ∧ SameMemory s t ∧ SameDevices s t) ∧
    (∃ t, exec .tya s = .next t ∧ t.a = s.y ∧ t.x = s.x ∧ t.y = s.y ∧ t.sp = s.sp ∧ FlagsNZ s.y s t ∧
      Advanced 1 2 s t ∧ SameMemory s t ∧ SameDevices s t) ∧
    (∃ t, exec .tsx s = .next t ∧ t.a = s.a ∧ t.x = s.sp ∧ t.y = s.y ∧ t.sp = s.sp ∧ FlagsNZ s.sp s t ∧
      Advanced 1 2 s t ∧ SameMemory s t ∧ SameDevices s t) ∧
    (∃ t, exec .txs s = .next t ∧ t.a = s.a ∧ t.x = s.x ∧ t.y = s.y ∧ t.sp = s.x ∧ t.flags = s.flags ∧
      Advanced 1 2 s t ∧ SameMemory s t ∧ SameDevices s t)

/-! ### Arithmetic and logic -/

/-- Rule R231: ADC in integers: the sum modulo 256, carry above 255, overflow by the rule's formula, which is the signed sum
leaving -128..127; the encodings; the decimal flag is not read. The operand is the immediate byte or the bus read of the
effective address (rules R150, R153). -/
def Obligations.AddWithCarry : Prop :=
  GroupEncoding 0x61 .adc ∧
  (∀ (b : Byte) (s : State), loadOperand (.imm b) s = (b, s)) ∧
  (∀ (m : MemOperand) (s : State), loadOperand (.mem m) s = memRead (effAddr m s).ea s) ∧
  ∀ (o : ReadOperand) (s : State),
    let m := (loadOperand o s).1
    ∃ t, exec (.adc o) s = .next t ∧
      t.a.toNat = (s.a.toNat + m.toNat + s.flags.c.toNat) % 256 ∧
      t.flags = { s.flags with
        c := decide (255 < s.a.toNat + m.toNat + s.flags.c.toNat)
        z := decide (t.a.toNat = 0)
        n := decide (0x80 ≤ t.a.toNat)
        v := decide (s.a.toInt + m.toInt + s.flags.c.toNat < -128 ∨ 127 < s.a.toInt + m.toInt + s.flags.c.toNat) } ∧
      (t.flags.v = true ↔ (s.a ^^^ t.a) &&& (m ^^^ t.a) &&& 0x80 ≠ 0) ∧
      t.x = s.x ∧ t.y = s.y ∧ t.sp = s.sp ∧ Advanced (readLength o) (readCost o s) s t ∧ SameMemory s t ∧
      SameDevices (loadOperand o s).2 t

/-- Rule R232 (and the signed reading of its overflow formula): SBC in integers: the difference modulo 256, carry when there
is no borrow, overflow exactly when the signed difference leaves -128..127; the encodings; the decimal flag is not read. The
operand is the immediate byte or the bus read of the effective address (rules R150, R153). -/
def Obligations.SubtractWithBorrow : Prop :=
  GroupEncoding 0xE1 .sbc ∧
  (∀ (b : Byte) (s : State), loadOperand (.imm b) s = (b, s)) ∧
  (∀ (m : MemOperand) (s : State), loadOperand (.mem m) s = memRead (effAddr m s).ea s) ∧
  ∀ (o : ReadOperand) (s : State),
    let m := (loadOperand o s).1
    let borrow : Int := if s.flags.c then 0 else 1
    ∃ t, exec (.sbc o) s = .next t ∧
      (t.a.toNat : Int) = ((s.a.toNat : Int) - m.toNat - borrow) % 256 ∧
      t.flags = { s.flags with
        c := decide (0 ≤ (s.a.toNat : Int) - m.toNat - borrow)
        z := decide (t.a.toNat = 0)
        n := decide (0x80 ≤ t.a.toNat)
        v := decide (s.a.toInt - m.toInt - borrow < -128 ∨ 127 < s.a.toInt - m.toInt - borrow) } ∧
      (t.flags.v = true ↔ (s.a ^^^ t.a) &&& (s.a ^^^ m) &&& 0x80 ≠ 0) ∧
      t.x = s.x ∧ t.y = s.y ∧ t.sp = s.sp ∧ Advanced (readLength o) (readCost o s) s t ∧ SameMemory s t ∧
      SameDevices (loadOperand o s).2 t

/-- Rules R233 to R235: AND, ORA and EOR, bit by bit, with their encodings; C and V stay. The operand is the immediate byte or
the bus read of the effective address (rules R150, R153). -/
def Obligations.LogicOps : Prop :=
  GroupEncoding 0x21 .and ∧ GroupEncoding 0x01 .ora ∧ GroupEncoding 0x41 .eor ∧
  (∀ (b : Byte) (s : State), loadOperand (.imm b) s = (b, s)) ∧
  (∀ (m : MemOperand) (s : State), loadOperand (.mem m) s = memRead (effAddr m s).ea s) ∧
  ∀ (o : ReadOperand) (s : State) (i : Instr) (f : Bool → Bool → Bool),
    (i = .and o ∧ f = and ∨ i = .ora o ∧ f = or ∨ i = .eor o ∧ f = xor) →
    ∃ t, exec i s = .next t ∧
      (∀ k : Nat, k < 8 → t.a.getLsbD k = f (s.a.getLsbD k) ((loadOperand o s).1.getLsbD k)) ∧
      FlagsNZ t.a s t ∧ t.x = s.x ∧ t.y = s.y ∧ t.sp = s.sp ∧
      Advanced (readLength o) (readCost o s) s t ∧ SameMemory s t ∧ SameDevices (loadOperand o s).2 t

/-- Rules R236 to R238: the compares set C when the register is at least the operand, Z when they are equal and N from the
wrapped difference; the registers and V stay. The operand is the immediate byte or the bus read of the effective address (rules
R150, R153). -/
def Obligations.Compares : Prop :=
  (∀ (b : Byte) (s : State), loadOperand (.imm b) s = (b, s)) ∧
  (∀ (m : MemOperand) (s : State), loadOperand (.mem m) s = memRead (effAddr m s).ea s) ∧
  ∀ (o : ReadOperand) (s : State) (i : Instr) (reg : Byte),
    (i = .cmp o ∧ reg = s.a ∨ i = .cpx o ∧ reg = s.x ∨ i = .cpy o ∧ reg = s.y) →
    let m := (loadOperand o s).1
    ∃ t, exec i s = .next t ∧
      t.flags = { s.flags with
        c := decide (m.toNat ≤ reg.toNat)
        z := decide (reg = m)
        n := decide (0x80 ≤ (reg.toNat + 256 - m.toNat) % 256) } ∧
      SameRegisters s t ∧ Advanced (readLength o) (readCost o s) s t ∧ SameMemory s t ∧
      SameDevices (loadOperand o s).2 t

/-- Rules R150, R239: BIT copies bits 7 and 6 of the operand into N and V and tests `A and m`; the operand is the bus read of
the effective address. -/
def Obligations.BitTest : Prop :=
  (∀ (m : MemOperand) (s : State), loadMem m s = memRead (effAddr m s).ea s) ∧
  ∀ (m : MemOperand) (s : State),
    let v := (loadMem m s).1
    ∃ t, exec (.bit m) s = .next t ∧
      t.flags = { s.flags with z := decide (s.a &&& v = 0), n := v.getLsbD 7, v := v.getLsbD 6 } ∧
      SameRegisters s t ∧ Advanced (memLength m) (memReadCost m s) s t ∧ SameMemory s t ∧
      SameDevices (loadMem m s).2 t

/-! ### Shifts, increments, decrements -/

/-- Rules R260 to R264, accumulator forms: the 9-bit shifts and rotates in integers. -/
def Obligations.AccumulatorShifts : Prop :=
  ∀ (s : State) (i : Instr) (r : Nat) (carry : Bool),
    (i = .asl .acc ∧ r = s.a.toNat * 2 % 256 ∧ carry = s.a.getLsbD 7 ∨
     i = .lsr .acc ∧ r = s.a.toNat / 2 ∧ carry = s.a.getLsbD 0 ∨
     i = .rol .acc ∧ r = s.a.toNat * 2 % 256 + s.flags.c.toNat ∧ carry = s.a.getLsbD 7 ∨
     i = .ror .acc ∧ r = s.a.toNat / 2 + 128 * s.flags.c.toNat ∧ carry = s.a.getLsbD 0) →
    ∃ t, exec i s = .next t ∧ t.a.toNat = r ∧
      t.flags = { s.flags with c := carry, z := decide (r = 0), n := decide (0x80 ≤ r) } ∧
      t.x = s.x ∧ t.y = s.y ∧ t.sp = s.sp ∧ Advanced 1 2 s t ∧ SameMemory s t ∧ SameDevices s t

/-- Rules R260 to R266, memory forms outside the ports: one read and one write of the effective address; INC and DEC leave C;
V stays; under the discard policy a write above 0x7FFF changes nothing. -/
def Obligations.ReadModifyWrite : Prop :=
  ∀ (m : MemOperand) (s : State) (i : Instr) (r : Nat) (carry : Bool),
    let v := peek s (effAddr m s).ea
    isPort (effAddr m s).ea = false →
    (i = .asl (.mem m) ∧ r = v.toNat * 2 % 256 ∧ carry = v.getLsbD 7 ∨
     i = .lsr (.mem m) ∧ r = v.toNat / 2 ∧ carry = v.getLsbD 0 ∨
     i = .rol (.mem m) ∧ r = v.toNat * 2 % 256 + s.flags.c.toNat ∧ carry = v.getLsbD 7 ∨
     i = .ror (.mem m) ∧ r = v.toNat / 2 + 128 * s.flags.c.toNat ∧ carry = v.getLsbD 0 ∨
     i = .inc m ∧ r = (v.toNat + 1) % 256 ∧ carry = s.flags.c ∨
     i = .dec m ∧ r = (v.toNat + 255) % 256 ∧ carry = s.flags.c) →
    ∃ t, exec i s = .next t ∧
      t.flags = { s.flags with c := carry, z := decide (r = 0), n := decide (0x80 ≤ r) } ∧
      SameRegisters s t ∧ SameDevices s t ∧ Advanced (memLength m) (rmwCycles m) s t ∧
      ∀ k : Nat, t.cpuMem.read k =
        if k = codeCell (effAddr m s).ea ∧ ¬ (s.params.romWritePolicy = .discard ∧ 0x8000 ≤ k) then BitVec.ofNat 8 r
        else s.cpuMem.read k

/-- A read-modify-write on a port is the bus read, with its side effects, and then the bus write of the result; it completes
unless that write starts a refused DMA. That a port is read and written literally so is THE MODEL'S CHOICE (log entry 10):
rule R260 describes the two side effects and lets a model refuse the case, and item U9 offers a refusal or this reading. -/
def Obligations.ReadModifyWriteOnPorts : Prop :=
  ∀ (m : MemOperand) (s : State) (i : Instr) (r : Byte) (carry : Bool),
    let ea := (effAddr m s).ea
    let v := (memRead ea s).1
    isPort ea = true →
    (i = .asl (.mem m) ∧ r = v + v ∧ carry = v.getLsbD 7 ∨
     i = .lsr (.mem m) ∧ r = v >>> 1 ∧ carry = v.getLsbD 0 ∨
     i = .rol (.mem m) ∧ r = v + v + (if s.flags.c then 1 else 0) ∧ carry = v.getLsbD 7 ∨
     i = .ror (.mem m) ∧ r = v >>> 1 + (if s.flags.c then 0x80 else 0) ∧ carry = v.getLsbD 0 ∨
     i = .inc m ∧ r = v + 1 ∧ carry = s.flags.c ∨
     i = .dec m ∧ r = v - 1 ∧ carry = s.flags.c) →
    (ea = 0x4014 ∧ 0x20 ≤ r.toNat ∧ r.toNat ≤ 0x40 → exec i s = .refused .dmaFromPort) ∧
    (¬ (ea = 0x4014 ∧ 0x20 ≤ r.toNat ∧ r.toNat ≤ 0x40) →
      ∃ u t : State, memWrite ea r (memRead ea s).2 = .next u ∧ exec i s = .next t ∧
        t = { u with
          flags := { s.flags with c := carry, z := decide (r.toNat = 0), n := decide (0x80 ≤ r.toNat) }
          pc := s.pc + BitVec.ofNat 16 (memLength m), cycles := u.cycles + rmwCycles m } ∧
        SameRegisters s t ∧ SameMemory s t)

/-- Rules R267 to R270: INX, INY, DEX and DEY, with their encodings, 2 cycles and 1 byte each. -/
def Obligations.IndexIncrements : Prop :=
  (encode .inx = [0xE8] ∧ encode .iny = [0xC8] ∧ encode .dex = [0xCA] ∧ encode .dey = [0x88]) ∧
  ∀ s : State,
    (∃ t, exec .inx s = .next t ∧ t.x.toNat = (s.x.toNat + 1) % 256 ∧ t.y = s.y ∧ FlagsNZ t.x s t ∧
      t.a = s.a ∧ t.sp = s.sp ∧ Advanced 1 2 s t ∧ SameMemory s t ∧ SameDevices s t) ∧
    (∃ t, exec .iny s = .next t ∧ t.y.toNat = (s.y.toNat + 1) % 256 ∧ t.x = s.x ∧ FlagsNZ t.y s t ∧
      t.a = s.a ∧ t.sp = s.sp ∧ Advanced 1 2 s t ∧ SameMemory s t ∧ SameDevices s t) ∧
    (∃ t, exec .dex s = .next t ∧ t.x.toNat = (s.x.toNat + 255) % 256 ∧ t.y = s.y ∧ FlagsNZ t.x s t ∧
      t.a = s.a ∧ t.sp = s.sp ∧ Advanced 1 2 s t ∧ SameMemory s t ∧ SameDevices s t) ∧
    (∃ t, exec .dey s = .next t ∧ t.y.toNat = (s.y.toNat + 255) % 256 ∧ t.x = s.x ∧ FlagsNZ t.y s t ∧
      t.a = s.a ∧ t.sp = s.sp ∧ Advanced 1 2 s t ∧ SameMemory s t ∧ SameDevices s t)

/-! ### Control transfer -/

/-- Rules R290 to R298: the eight branches: the condition, the target relative to the next instruction, 2, 3 or 4 cycles, and
nothing else changed. -/
def Obligations.Branches : Prop :=
  ∀ (s : State) (rel : Byte) (i : Instr) (cond : Bool),
    (i = .bcc rel ∧ cond = !s.flags.c ∨ i = .bcs rel ∧ cond = s.flags.c ∨
     i = .beq rel ∧ cond = s.flags.z ∨ i = .bne rel ∧ cond = !s.flags.z ∨
     i = .bmi rel ∧ cond = s.flags.n ∨ i = .bpl rel ∧ cond = !s.flags.n ∨
     i = .bvc rel ∧ cond = !s.flags.v ∨ i = .bvs rel ∧ cond = s.flags.v) →
    let next := (s.pc.toNat + 2) % 65536
    let target := ((next : Int) + rel.toInt) % 65536
    ∃ t, exec i s = .next t ∧
      (t.pc.toNat : Int) = (if cond then target else next) ∧
      t.cycles = s.cycles + (if cond then (if target / 256 = (next : Int) / 256 then 3 else 4) else 2) ∧
      t = { s with pc := t.pc, cycles := t.cycles }

/-- Rules R157, R299: JMP absolute and indirect; the pointer's high byte comes from the same page when the parameter says so;
outside the ports nothing but `PC` and the cycles changes. -/
def Obligations.Jump : Prop :=
  ∀ (s : State) (w : Word),
    exec (.jmp (.abs w)) s = .next { s with pc := w, cycles := s.cycles + 3 } ∧
    (∃ t, exec (.jmp (.ind w)) s = .next t ∧ SameRegisters s t ∧ t.flags = s.flags ∧ SameMemory s t ∧
      t.cycles = s.cycles + 5 ∧ t.totalCycle = s.totalCycle) ∧
    (∀ w2 : Nat, w2 = (if s.params.jmpIndirectPageWrap then w.toNat / 256 * 256 + (w.toNat + 1) % 256
        else (w.toNat + 1) % 65536) →
      isPort w = false → isPort (BitVec.ofNat 16 w2) = false →
      exec (.jmp (.ind w)) s =
        .next { s with pc := peek s (BitVec.ofNat 16 w2) ++ peek s w, cycles := s.cycles + 5 })

/-- Rules R300, R301: JSR pushes the address of its last byte, high byte first, and jumps; RTS pulls it and adds one; an RTS
after a JSR continues at the instruction after the JSR with the stack pointer as it was; the encodings. -/
def Obligations.CallAndReturn : Prop :=
  (∀ w : Word, encode (.jsr w) = [0x20, lo8 w, hi8 w]) ∧ encode .rts = [0x60] ∧
  ∀ (s : State) (w : Word),
    (∃ t, exec (.jsr w) s = .next t ∧
      (∀ k : Nat, t.cpuMem.read k =
        if k = 0x100 + s.sp.toNat then hi8 (s.pc + 2)
        else if k = 0x100 + (s.sp - 1).toNat then lo8 (s.pc + 2)
        else s.cpuMem.read k) ∧
      t = { s with pc := w, sp := s.sp - 2, cycles := s.cycles + 6, cpuMem := t.cpuMem } ∧
      ∃ u, exec .rts t = .next u ∧ u.pc = s.pc + 3 ∧ u.sp = s.sp) ∧
    exec .rts s = .next { s with
      pc := (s.cpuMem.read (0x100 + (s.sp + 2).toNat) ++ s.cpuMem.read (0x100 + (s.sp + 1).toNat)) + 1
      sp := s.sp + 2
      cycles := s.cycles + 6 }

/-! ### Stack, flags, system -/

/-- Rules R34 to R37: the layout of the status byte, the copy BRK pushes, and what a pulled byte loads. -/
def Obligations.StatusByteLayout : Prop :=
  ∀ (f : Flags) (b : Byte),
    ((statusByte f).getLsbD 0 = f.c ∧ (statusByte f).getLsbD 1 = f.z ∧ (statusByte f).getLsbD 2 = f.i ∧
      (statusByte f).getLsbD 3 = f.d ∧ (statusByte f).getLsbD 4 = f.b ∧ (statusByte f).getLsbD 5 = true ∧
      (statusByte f).getLsbD 6 = f.v ∧ (statusByte f).getLsbD 7 = f.n) ∧
    (∀ i : Nat, (statusByteBrk f).getLsbD i = (decide (i = 4) || (statusByte f).getLsbD i)) ∧
    loadStatus b f = { c := b.getLsbD 0, z := b.getLsbD 1, i := b.getLsbD 2, d := b.getLsbD 3, b := f.b,
                       v := b.getLsbD 6, n := b.getLsbD 7 } ∧
    loadStatus (statusByte f) f = f

/-- Rules R43, R44, R46, R321 to R324: PHA, PHP, PLA and PLP, with their encodings; a push writes one byte of the stack page at
the old pointer, a pull reads at the new one, the pointer wraps; PLA after PHA and PLP after PHP restore. -/
def Obligations.PushAndPull : Prop :=
  (encode .pha = [0x48] ∧ encode .php = [0x08] ∧ encode .pla = [0x68] ∧ encode .plp = [0x28]) ∧
  ∀ s : State,
    (∃ t, exec .pha s = .next t ∧
      (∀ k : Nat, t.cpuMem.read k = if k = 0x100 + s.sp.toNat then s.a else s.cpuMem.read k) ∧
      t = { s with pc := s.pc + 1, sp := s.sp - 1, cycles := s.cycles + 3, cpuMem := t.cpuMem } ∧
      ∃ u, exec .pla t = .next u ∧ u.a = s.a ∧ u.sp = s.sp ∧ FlagsNZ s.a s u) ∧
    (∃ t, exec .php s = .next t ∧
      (∀ k : Nat, t.cpuMem.read k = if k = 0x100 + s.sp.toNat then statusByte s.flags else s.cpuMem.read k) ∧
      t = { s with pc := s.pc + 1, sp := s.sp - 1, cycles := s.cycles + 3, cpuMem := t.cpuMem } ∧
      ∃ u, exec .plp t = .next u ∧ u.flags = s.flags ∧ u.sp = s.sp) ∧
    (∀ b : Byte, b = s.cpuMem.read (0x100 + (s.sp + 1).toNat) →
      (∃ t, exec .pla s = .next t ∧ FlagsNZ b s t ∧
        t = { s with a := b, flags := t.flags, pc := s.pc + 1, sp := s.sp + 1, cycles := s.cycles + 4 }) ∧
      exec .plp s = .next { s with
        flags := loadStatus b s.flags, pc := s.pc + 1, sp := s.sp + 1, cycles := s.cycles + 4 })

/-- Rules R325 to R332: the seven flag instructions and NOP, with their encodings, 2 cycles and 1 byte each. -/
def Obligations.FlagInstructions : Prop :=
  (encode .clc = [0x18] ∧ encode .sec = [0x38] ∧ encode .cli = [0x58] ∧ encode .sei = [0x78] ∧
    encode .cld = [0xD8] ∧ encode .sed = [0xF8] ∧ encode .clv = [0xB8] ∧ encode .nop = [0xEA]) ∧
  ∀ (s : State) (i : Instr) (f : Flags),
    (i = .clc ∧ f = { s.flags with c := false } ∨ i = .sec ∧ f = { s.flags with c := true } ∨
     i = .cli ∧ f = { s.flags with i := false } ∨ i = .sei ∧ f = { s.flags with i := true } ∨
     i = .cld ∧ f = { s.flags with d := false } ∨ i = .sed ∧ f = { s.flags with d := true } ∨
     i = .clv ∧ f = { s.flags with v := false } ∨ i = .nop ∧ f = s.flags) →
    exec i s = .next { s with flags := f, pc := s.pc + 1, cycles := s.cycles + 2 }

/-- Rules R333, R334, R557, R559: BRK pushes `PC + 2` and the status with bit 4 set, sets I and loads the vector; RTI pulls the
status and `PC`; an RTI after a BRK continues two bytes after the BRK with flags and stack pointer as they were; the
encodings. -/
def Obligations.BreakAndReturn : Prop :=
  encode .brk = [0x00] ∧ encode .rti = [0x40] ∧
  ∀ s : State,
    (∃ t, exec .brk s = .next t ∧
      (∀ k : Nat, t.cpuMem.read k =
        if k = 0x100 + s.sp.toNat then hi8 (s.pc + 2)
        else if k = 0x100 + (s.sp - 1).toNat then lo8 (s.pc + 2)
        else if k = 0x100 + (s.sp - 2).toNat then statusByte s.flags ||| 0x10
        else s.cpuMem.read k) ∧
      t = { s with
        pc := s.cpuMem.read 0xFFFF ++ s.cpuMem.read 0xFFFE
        flags := { s.flags with i := true }
        sp := s.sp - 3, cycles := s.cycles + 7, cpuMem := t.cpuMem } ∧
      ∃ u, exec .rti t = .next u ∧ u.pc = s.pc + 2 ∧ u.sp = s.sp ∧ u.flags = s.flags) ∧
    exec .rti s = .next { s with
      flags := loadStatus (s.cpuMem.read (0x100 + (s.sp + 1).toNat)) s.flags
      pc := s.cpuMem.read (0x100 + (s.sp + 3).toNat) ++ s.cpuMem.read (0x100 + (s.sp + 2).toNat)
      sp := s.sp + 3
      cycles := s.cycles + 6 }

/-- Rules R172, R335: a step at an unknown opcode byte outside the ports is a one-byte, one-cycle no-op followed by three dots;
no operand byte is read. -/
def Obligations.UnknownOpcodeStep : Prop :=
  (∀ (s : State) (op : Byte), exec (.unknown op) s = .next { s with pc := s.pc + 1, cycles := s.cycles + 1 }) ∧
  ∀ s : State, nmiCondition s = false → isPort s.pc = false → peek s s.pc ∈ unknownOpcodes →
    step s = .next (runDots 3 { s with
      pc := s.pc + 1, cycles := 1, totalCycle := s.totalCycle + 1, events := [] })
end

