-- ==== Sys2Proof/Laws/Cells.lean ====
section
/-! SUPPORT. The laws of a sparse array: a read after a write, and that every write keeps the canonical form. -/

namespace Sys2Proof.Machine

variable {α : Type} (fill : α)

theorem Cells.read_erase (m : Cells α) (k j : Nat) :
    Cells.read fill (Cells.erase m k) j = if j = k then fill else Cells.read fill m j := by
  induction m with
  | nil => simp [Cells.erase, Cells.read]
  | cons e rest ih =>
    obtain ⟨i, x⟩ := e
    simp only [Cells.erase]
    split
    · rename_i h
      subst h
      rw [ih]
      by_cases hj : j = i
      · simp [hj]
      · have : ¬ i = j := fun h => hj h.symm
        simp [Cells.read, this]
    · rename_i h
      simp only [Cells.read, ih]
      by_cases hi : i = j
      · subst hi
        simp [h]
      · simp [hi]

theorem Cells.read_insert_erased (m : Cells α) (k j : Nat) (x : α) :
    Cells.read fill (Cells.insert (Cells.erase m k) k x) j = if j = k then x else Cells.read fill m j := by
  induction m with
  | nil =>
    simp only [Cells.erase, Cells.insert, Cells.read]
    by_cases h : k = j
    · simp [h]
    · have : ¬ j = k := fun e => h e.symm
      simp [h, this]
  | cons e rest ih =>
    obtain ⟨i, y⟩ := e
    simp only [Cells.erase]
    split
    · rename_i h
      subst h
      rw [ih]
      by_cases hj : j = i
      · simp [hj]
      · have : ¬ i = j := fun h => hj h.symm
        simp [Cells.read, hj, this]
    · rename_i h
      simp only [Cells.insert]
      split
      · simp only [Cells.read]
        by_cases hk : k = j
        · subst hk
          simp
        · have hjk : ¬ j = k := fun e => hk e.symm
          simp only [hk, hjk, if_false]
          rw [Cells.read_erase]
          simp [hjk]
      · simp only [Cells.read, ih]
        by_cases hi : i = j
        · subst hi
          simp [h]
        · simp [hi]

/-- A read after a write: the value written at the same index, else what stood there. -/
theorem Cells.read_write [DecidableEq α] (m : Cells α) (k j : Nat) (x : α) :
    Cells.read fill (Cells.write fill m k x) j = if j = k then x else Cells.read fill m j := by
  unfold Cells.write
  split
  · rename_i h
    rw [Cells.read_erase, h]
  · exact Cells.read_insert_erased fill m k j x

@[simp] theorem Memory.read_write (m : Memory) (k j : Nat) (x : Byte) :
    (m.write k x).read j = if j = k then x else m.read j :=
  Cells.read_write memoryFill m k j x

variable [DecidableEq α]

theorem Cells.wfFrom_mono (size lo lo' : Nat) (h : lo' ≤ lo) (m : Cells α) :
    Cells.wfFrom fill size lo m = true → Cells.wfFrom fill size lo' m = true := by
  cases m with
  | nil => simp [Cells.wfFrom]
  | cons e rest =>
    obtain ⟨i, x⟩ := e
    simp only [Cells.wfFrom, Bool.and_eq_true, decide_eq_true_eq]
    rintro ⟨⟨⟨h1, h2⟩, h3⟩, h4⟩
    exact ⟨⟨⟨by omega, h2⟩, h3⟩, h4⟩

theorem Cells.wfFrom_erase (size : Nat) (m : Cells α) (k : Nat) :
    ∀ lo, Cells.wfFrom fill size lo m = true → Cells.wfFrom fill size lo (Cells.erase m k) = true := by
  induction m with
  | nil => simp [Cells.erase, Cells.wfFrom]
  | cons e rest ih =>
    obtain ⟨i, x⟩ := e
    intro lo
    simp only [Cells.wfFrom, Cells.erase, Bool.and_eq_true, decide_eq_true_eq]
    rintro ⟨⟨⟨h1, h2⟩, h3⟩, h4⟩
    split
    · exact Cells.wfFrom_mono fill size (i + 1) lo (by omega) _ (ih _ h4)
    · simp only [Cells.wfFrom, Bool.and_eq_true, decide_eq_true_eq]
      exact ⟨⟨⟨h1, h2⟩, h3⟩, ih _ h4⟩

theorem Cells.wfFrom_insert_erased (size : Nat) (m : Cells α) (k : Nat) (x : α) (hk : k < size) (hx : x ≠ fill) :
    ∀ lo, lo ≤ k → Cells.wfFrom fill size lo m = true →
      Cells.wfFrom fill size lo (Cells.insert (Cells.erase m k) k x) = true := by
  induction m with
  | nil => intro lo hlo; simp [Cells.erase, Cells.insert, Cells.wfFrom, hlo, hk, hx]
  | cons e rest ih =>
    obtain ⟨i, y⟩ := e
    intro lo hlo
    simp only [Cells.wfFrom, Cells.erase, Bool.and_eq_true, decide_eq_true_eq]
    rintro ⟨⟨⟨h1, h2⟩, h3⟩, h4⟩
    split
    · exact ih lo hlo (Cells.wfFrom_mono fill size (i + 1) lo (by omega) _ h4)
    · rename_i hne
      simp only [Cells.insert]
      split
      · rename_i hlt
        simp only [Cells.wfFrom, Bool.and_eq_true, decide_eq_true_eq]
        exact ⟨⟨⟨hlo, hk⟩, hx⟩, ⟨⟨by omega, h2⟩, h3⟩, Cells.wfFrom_erase fill size rest k _ h4⟩
      · rename_i hge
        simp only [Cells.wfFrom, Bool.and_eq_true, decide_eq_true_eq]
        exact ⟨⟨⟨h1, h2⟩, h3⟩, ih (i + 1) (by omega) h4⟩

/-- A write inside the array keeps the canonical form. -/
theorem Cells.wf_write (size : Nat) (m : Cells α) (k : Nat) (x : α) (hk : k < size)
    (h : Cells.wf fill size m = true) : Cells.wf fill size (Cells.write fill m k x) = true := by
  unfold Cells.write Cells.wf
  split
  · exact Cells.wfFrom_erase fill size m k 0 h
  · rename_i hx
    exact Cells.wfFrom_insert_erased fill size m k x hk hx 0 (Nat.zero_le k) h

/-- A write inside a memory keeps its canonical form. -/
theorem Memory.wf_write (size : Nat) (m : Memory) (k : Nat) (x : Byte) (hk : k < size)
    (h : m.wf size = true) : (m.write k x).wf size = true :=
  Cells.wf_write memoryFill size m k x hk h

end Sys2Proof.Machine
end

