-- ==== Sys2Proof/Laws/State.lean ====
section
/-! SUPPORT. Every field of the state after every named update of one field. -/

namespace Sys2Proof.Machine

@[simp] theorem State.setA_a (s : State) (val : Byte) : (s.setA val).a = val := rfl
@[simp] theorem State.setA_x (s : State) (val : Byte) : (s.setA val).x = s.x := rfl
@[simp] theorem State.setA_y (s : State) (val : Byte) : (s.setA val).y = s.y := rfl
@[simp] theorem State.setA_sp (s : State) (val : Byte) : (s.setA val).sp = s.sp := rfl
@[simp] theorem State.setA_pc (s : State) (val : Byte) : (s.setA val).pc = s.pc := rfl
@[simp] theorem State.setA_flags (s : State) (val : Byte) : (s.setA val).flags = s.flags := rfl
@[simp] theorem State.setA_totalCycle (s : State) (val : Byte) : (s.setA val).totalCycle = s.totalCycle := rfl
@[simp] theorem State.setA_cycles (s : State) (val : Byte) : (s.setA val).cycles = s.cycles := rfl
@[simp] theorem State.setA_nmiServiced (s : State) (val : Byte) : (s.setA val).nmiServiced = s.nmiServiced := rfl
@[simp] theorem State.setA_cpuMem (s : State) (val : Byte) : (s.setA val).cpuMem = s.cpuMem := rfl
@[simp] theorem State.setA_ppu (s : State) (val : Byte) : (s.setA val).ppu = s.ppu := rfl
@[simp] theorem State.setA_params (s : State) (val : Byte) : (s.setA val).params = s.params := rfl
@[simp] theorem State.setA_inputReads (s : State) (val : Byte) : (s.setA val).inputReads = s.inputReads := rfl
@[simp] theorem State.setA_events (s : State) (val : Byte) : (s.setA val).events = s.events := rfl

@[simp] theorem State.setX_a (s : State) (val : Byte) : (s.setX val).a = s.a := rfl
@[simp] theorem State.setX_x (s : State) (val : Byte) : (s.setX val).x = val := rfl
@[simp] theorem State.setX_y (s : State) (val : Byte) : (s.setX val).y = s.y := rfl
@[simp] theorem State.setX_sp (s : State) (val : Byte) : (s.setX val).sp = s.sp := rfl
@[simp] theorem State.setX_pc (s : State) (val : Byte) : (s.setX val).pc = s.pc := rfl
@[simp] theorem State.setX_flags (s : State) (val : Byte) : (s.setX val).flags = s.flags := rfl
@[simp] theorem State.setX_totalCycle (s : State) (val : Byte) : (s.setX val).totalCycle = s.totalCycle := rfl
@[simp] theorem State.setX_cycles (s : State) (val : Byte) : (s.setX val).cycles = s.cycles := rfl
@[simp] theorem State.setX_nmiServiced (s : State) (val : Byte) : (s.setX val).nmiServiced = s.nmiServiced := rfl
@[simp] theorem State.setX_cpuMem (s : State) (val : Byte) : (s.setX val).cpuMem = s.cpuMem := rfl
@[simp] theorem State.setX_ppu (s : State) (val : Byte) : (s.setX val).ppu = s.ppu := rfl
@[simp] theorem State.setX_params (s : State) (val : Byte) : (s.setX val).params = s.params := rfl
@[simp] theorem State.setX_inputReads (s : State) (val : Byte) : (s.setX val).inputReads = s.inputReads := rfl
@[simp] theorem State.setX_events (s : State) (val : Byte) : (s.setX val).events = s.events := rfl

@[simp] theorem State.setY_a (s : State) (val : Byte) : (s.setY val).a = s.a := rfl
@[simp] theorem State.setY_x (s : State) (val : Byte) : (s.setY val).x = s.x := rfl
@[simp] theorem State.setY_y (s : State) (val : Byte) : (s.setY val).y = val := rfl
@[simp] theorem State.setY_sp (s : State) (val : Byte) : (s.setY val).sp = s.sp := rfl
@[simp] theorem State.setY_pc (s : State) (val : Byte) : (s.setY val).pc = s.pc := rfl
@[simp] theorem State.setY_flags (s : State) (val : Byte) : (s.setY val).flags = s.flags := rfl
@[simp] theorem State.setY_totalCycle (s : State) (val : Byte) : (s.setY val).totalCycle = s.totalCycle := rfl
@[simp] theorem State.setY_cycles (s : State) (val : Byte) : (s.setY val).cycles = s.cycles := rfl
@[simp] theorem State.setY_nmiServiced (s : State) (val : Byte) : (s.setY val).nmiServiced = s.nmiServiced := rfl
@[simp] theorem State.setY_cpuMem (s : State) (val : Byte) : (s.setY val).cpuMem = s.cpuMem := rfl
@[simp] theorem State.setY_ppu (s : State) (val : Byte) : (s.setY val).ppu = s.ppu := rfl
@[simp] theorem State.setY_params (s : State) (val : Byte) : (s.setY val).params = s.params := rfl
@[simp] theorem State.setY_inputReads (s : State) (val : Byte) : (s.setY val).inputReads = s.inputReads := rfl
@[simp] theorem State.setY_events (s : State) (val : Byte) : (s.setY val).events = s.events := rfl

@[simp] theorem State.setSp_a (s : State) (val : Byte) : (s.setSp val).a = s.a := rfl
@[simp] theorem State.setSp_x (s : State) (val : Byte) : (s.setSp val).x = s.x := rfl
@[simp] theorem State.setSp_y (s : State) (val : Byte) : (s.setSp val).y = s.y := rfl
@[simp] theorem State.setSp_sp (s : State) (val : Byte) : (s.setSp val).sp = val := rfl
@[simp] theorem State.setSp_pc (s : State) (val : Byte) : (s.setSp val).pc = s.pc := rfl
@[simp] theorem State.setSp_flags (s : State) (val : Byte) : (s.setSp val).flags = s.flags := rfl
@[simp] theorem State.setSp_totalCycle (s : State) (val : Byte) : (s.setSp val).totalCycle = s.totalCycle := rfl
@[simp] theorem State.setSp_cycles (s : State) (val : Byte) : (s.setSp val).cycles = s.cycles := rfl
@[simp] theorem State.setSp_nmiServiced (s : State) (val : Byte) : (s.setSp val).nmiServiced = s.nmiServiced := rfl
@[simp] theorem State.setSp_cpuMem (s : State) (val : Byte) : (s.setSp val).cpuMem = s.cpuMem := rfl
@[simp] theorem State.setSp_ppu (s : State) (val : Byte) : (s.setSp val).ppu = s.ppu := rfl
@[simp] theorem State.setSp_params (s : State) (val : Byte) : (s.setSp val).params = s.params := rfl
@[simp] theorem State.setSp_inputReads (s : State) (val : Byte) : (s.setSp val).inputReads = s.inputReads := rfl
@[simp] theorem State.setSp_events (s : State) (val : Byte) : (s.setSp val).events = s.events := rfl

@[simp] theorem State.setPc_a (s : State) (val : Word) : (s.setPc val).a = s.a := rfl
@[simp] theorem State.setPc_x (s : State) (val : Word) : (s.setPc val).x = s.x := rfl
@[simp] theorem State.setPc_y (s : State) (val : Word) : (s.setPc val).y = s.y := rfl
@[simp] theorem State.setPc_sp (s : State) (val : Word) : (s.setPc val).sp = s.sp := rfl
@[simp] theorem State.setPc_pc (s : State) (val : Word) : (s.setPc val).pc = val := rfl
@[simp] theorem State.setPc_flags (s : State) (val : Word) : (s.setPc val).flags = s.flags := rfl
@[simp] theorem State.setPc_totalCycle (s : State) (val : Word) : (s.setPc val).totalCycle = s.totalCycle := rfl
@[simp] theorem State.setPc_cycles (s : State) (val : Word) : (s.setPc val).cycles = s.cycles := rfl
@[simp] theorem State.setPc_nmiServiced (s : State) (val : Word) : (s.setPc val).nmiServiced = s.nmiServiced := rfl
@[simp] theorem State.setPc_cpuMem (s : State) (val : Word) : (s.setPc val).cpuMem = s.cpuMem := rfl
@[simp] theorem State.setPc_ppu (s : State) (val : Word) : (s.setPc val).ppu = s.ppu := rfl
@[simp] theorem State.setPc_params (s : State) (val : Word) : (s.setPc val).params = s.params := rfl
@[simp] theorem State.setPc_inputReads (s : State) (val : Word) : (s.setPc val).inputReads = s.inputReads := rfl
@[simp] theorem State.setPc_events (s : State) (val : Word) : (s.setPc val).events = s.events := rfl

@[simp] theorem State.setFlags_a (s : State) (val : Flags) : (s.setFlags val).a = s.a := rfl
@[simp] theorem State.setFlags_x (s : State) (val : Flags) : (s.setFlags val).x = s.x := rfl
@[simp] theorem State.setFlags_y (s : State) (val : Flags) : (s.setFlags val).y = s.y := rfl
@[simp] theorem State.setFlags_sp (s : State) (val : Flags) : (s.setFlags val).sp = s.sp := rfl
@[simp] theorem State.setFlags_pc (s : State) (val : Flags) : (s.setFlags val).pc = s.pc := rfl
@[simp] theorem State.setFlags_flags (s : State) (val : Flags) : (s.setFlags val).flags = val := rfl
@[simp] theorem State.setFlags_totalCycle (s : State) (val : Flags) : (s.setFlags val).totalCycle = s.totalCycle := rfl
@[simp] theorem State.setFlags_cycles (s : State) (val : Flags) : (s.setFlags val).cycles = s.cycles := rfl
@[simp] theorem State.setFlags_nmiServiced (s : State) (val : Flags) : (s.setFlags val).nmiServiced = s.nmiServiced := rfl
@[simp] theorem State.setFlags_cpuMem (s : State) (val : Flags) : (s.setFlags val).cpuMem = s.cpuMem := rfl
@[simp] theorem State.setFlags_ppu (s : State) (val : Flags) : (s.setFlags val).ppu = s.ppu := rfl
@[simp] theorem State.setFlags_params (s : State) (val : Flags) : (s.setFlags val).params = s.params := rfl
@[simp] theorem State.setFlags_inputReads (s : State) (val : Flags) : (s.setFlags val).inputReads = s.inputReads := rfl
@[simp] theorem State.setFlags_events (s : State) (val : Flags) : (s.setFlags val).events = s.events := rfl

@[simp] theorem State.setTotalCycle_a (s : State) (val : Nat) : (s.setTotalCycle val).a = s.a := rfl
@[simp] theorem State.setTotalCycle_x (s : State) (val : Nat) : (s.setTotalCycle val).x = s.x := rfl
@[simp] theorem State.setTotalCycle_y (s : State) (val : Nat) : (s.setTotalCycle val).y = s.y := rfl
@[simp] theorem State.setTotalCycle_sp (s : State) (val : Nat) : (s.setTotalCycle val).sp = s.sp := rfl
@[simp] theorem State.setTotalCycle_pc (s : State) (val : Nat) : (s.setTotalCycle val).pc = s.pc := rfl
@[simp] theorem State.setTotalCycle_flags (s : State) (val : Nat) : (s.setTotalCycle val).flags = s.flags := rfl
@[simp] theorem State.setTotalCycle_totalCycle (s : State) (val : Nat) : (s.setTotalCycle val).totalCycle = val := rfl
@[simp] theorem State.setTotalCycle_cycles (s : State) (val : Nat) : (s.setTotalCycle val).cycles = s.cycles := rfl
@[simp] theorem State.setTotalCycle_nmiServiced (s : State) (val : Nat) : (s.setTotalCycle val).nmiServiced = s.nmiServiced := rfl
@[simp] theorem State.setTotalCycle_cpuMem (s : State) (val : Nat) : (s.setTotalCycle val).cpuMem = s.cpuMem := rfl
@[simp] theorem State.setTotalCycle_ppu (s : State) (val : Nat) : (s.setTotalCycle val).ppu = s.ppu := rfl
@[simp] theorem State.setTotalCycle_params (s : State) (val : Nat) : (s.setTotalCycle val).params = s.params := rfl
@[simp] theorem State.setTotalCycle_inputReads (s : State) (val : Nat) : (s.setTotalCycle val).inputReads = s.inputReads := rfl
@[simp] theorem State.setTotalCycle_events (s : State) (val : Nat) : (s.setTotalCycle val).events = s.events := rfl

@[simp] theorem State.setCycles_a (s : State) (val : Nat) : (s.setCycles val).a = s.a := rfl
@[simp] theorem State.setCycles_x (s : State) (val : Nat) : (s.setCycles val).x = s.x := rfl
@[simp] theorem State.setCycles_y (s : State) (val : Nat) : (s.setCycles val).y = s.y := rfl
@[simp] theorem State.setCycles_sp (s : State) (val : Nat) : (s.setCycles val).sp = s.sp := rfl
@[simp] theorem State.setCycles_pc (s : State) (val : Nat) : (s.setCycles val).pc = s.pc := rfl
@[simp] theorem State.setCycles_flags (s : State) (val : Nat) : (s.setCycles val).flags = s.flags := rfl
@[simp] theorem State.setCycles_totalCycle (s : State) (val : Nat) : (s.setCycles val).totalCycle = s.totalCycle := rfl
@[simp] theorem State.setCycles_cycles (s : State) (val : Nat) : (s.setCycles val).cycles = val := rfl
@[simp] theorem State.setCycles_nmiServiced (s : State) (val : Nat) : (s.setCycles val).nmiServiced = s.nmiServiced := rfl
@[simp] theorem State.setCycles_cpuMem (s : State) (val : Nat) : (s.setCycles val).cpuMem = s.cpuMem := rfl
@[simp] theorem State.setCycles_ppu (s : State) (val : Nat) : (s.setCycles val).ppu = s.ppu := rfl
@[simp] theorem State.setCycles_params (s : State) (val : Nat) : (s.setCycles val).params = s.params := rfl
@[simp] theorem State.setCycles_inputReads (s : State) (val : Nat) : (s.setCycles val).inputReads = s.inputReads := rfl
@[simp] theorem State.setCycles_events (s : State) (val : Nat) : (s.setCycles val).events = s.events := rfl

@[simp] theorem State.setNmiServiced_a (s : State) (val : Bool) : (s.setNmiServiced val).a = s.a := rfl
@[simp] theorem State.setNmiServiced_x (s : State) (val : Bool) : (s.setNmiServiced val).x = s.x := rfl
@[simp] theorem State.setNmiServiced_y (s : State) (val : Bool) : (s.setNmiServiced val).y = s.y := rfl
@[simp] theorem State.setNmiServiced_sp (s : State) (val : Bool) : (s.setNmiServiced val).sp = s.sp := rfl
@[simp] theorem State.setNmiServiced_pc (s : State) (val : Bool) : (s.setNmiServiced val).pc = s.pc := rfl
@[simp] theorem State.setNmiServiced_flags (s : State) (val : Bool) : (s.setNmiServiced val).flags = s.flags := rfl
@[simp] theorem State.setNmiServiced_totalCycle (s : State) (val : Bool) : (s.setNmiServiced val).totalCycle = s.totalCycle := rfl
@[simp] theorem State.setNmiServiced_cycles (s : State) (val : Bool) : (s.setNmiServiced val).cycles = s.cycles := rfl
@[simp] theorem State.setNmiServiced_nmiServiced (s : State) (val : Bool) : (s.setNmiServiced val).nmiServiced = val := rfl
@[simp] theorem State.setNmiServiced_cpuMem (s : State) (val : Bool) : (s.setNmiServiced val).cpuMem = s.cpuMem := rfl
@[simp] theorem State.setNmiServiced_ppu (s : State) (val : Bool) : (s.setNmiServiced val).ppu = s.ppu := rfl
@[simp] theorem State.setNmiServiced_params (s : State) (val : Bool) : (s.setNmiServiced val).params = s.params := rfl
@[simp] theorem State.setNmiServiced_inputReads (s : State) (val : Bool) : (s.setNmiServiced val).inputReads = s.inputReads := rfl
@[simp] theorem State.setNmiServiced_events (s : State) (val : Bool) : (s.setNmiServiced val).events = s.events := rfl

@[simp] theorem State.setCpuMem_a (s : State) (val : Memory) : (s.setCpuMem val).a = s.a := rfl
@[simp] theorem State.setCpuMem_x (s : State) (val : Memory) : (s.setCpuMem val).x = s.x := rfl
@[simp] theorem State.setCpuMem_y (s : State) (val : Memory) : (s.setCpuMem val).y = s.y := rfl
@[simp] theorem State.setCpuMem_sp (s : State) (val : Memory) : (s.setCpuMem val).sp = s.sp := rfl
@[simp] theorem State.setCpuMem_pc (s : State) (val : Memory) : (s.setCpuMem val).pc = s.pc := rfl
@[simp] theorem State.setCpuMem_flags (s : State) (val : Memory) : (s.setCpuMem val).flags = s.flags := rfl
@[simp] theorem State.setCpuMem_totalCycle (s : State) (val : Memory) : (s.setCpuMem val).totalCycle = s.totalCycle := rfl
@[simp] theorem State.setCpuMem_cycles (s : State) (val : Memory) : (s.setCpuMem val).cycles = s.cycles := rfl
@[simp] theorem State.setCpuMem_nmiServiced (s : State) (val : Memory) : (s.setCpuMem val).nmiServiced = s.nmiServiced := rfl
@[simp] theorem State.setCpuMem_cpuMem (s : State) (val : Memory) : (s.setCpuMem val).cpuMem = val := rfl
@[simp] theorem State.setCpuMem_ppu (s : State) (val : Memory) : (s.setCpuMem val).ppu = s.ppu := rfl
@[simp] theorem State.setCpuMem_params (s : State) (val : Memory) : (s.setCpuMem val).params = s.params := rfl
@[simp] theorem State.setCpuMem_inputReads (s : State) (val : Memory) : (s.setCpuMem val).inputReads = s.inputReads := rfl
@[simp] theorem State.setCpuMem_events (s : State) (val : Memory) : (s.setCpuMem val).events = s.events := rfl

@[simp] theorem State.setPpu_a (s : State) (val : Ppu) : (s.setPpu val).a = s.a := rfl
@[simp] theorem State.setPpu_x (s : State) (val : Ppu) : (s.setPpu val).x = s.x := rfl
@[simp] theorem State.setPpu_y (s : State) (val : Ppu) : (s.setPpu val).y = s.y := rfl
@[simp] theorem State.setPpu_sp (s : State) (val : Ppu) : (s.setPpu val).sp = s.sp := rfl
@[simp] theorem State.setPpu_pc (s : State) (val : Ppu) : (s.setPpu val).pc = s.pc := rfl
@[simp] theorem State.setPpu_flags (s : State) (val : Ppu) : (s.setPpu val).flags = s.flags := rfl
@[simp] theorem State.setPpu_totalCycle (s : State) (val : Ppu) : (s.setPpu val).totalCycle = s.totalCycle := rfl
@[simp] theorem State.setPpu_cycles (s : State) (val : Ppu) : (s.setPpu val).cycles = s.cycles := rfl
@[simp] theorem State.setPpu_nmiServiced (s : State) (val : Ppu) : (s.setPpu val).nmiServiced = s.nmiServiced := rfl
@[simp] theorem State.setPpu_cpuMem (s : State) (val : Ppu) : (s.setPpu val).cpuMem = s.cpuMem := rfl
@[simp] theorem State.setPpu_ppu (s : State) (val : Ppu) : (s.setPpu val).ppu = val := rfl
@[simp] theorem State.setPpu_params (s : State) (val : Ppu) : (s.setPpu val).params = s.params := rfl
@[simp] theorem State.setPpu_inputReads (s : State) (val : Ppu) : (s.setPpu val).inputReads = s.inputReads := rfl
@[simp] theorem State.setPpu_events (s : State) (val : Ppu) : (s.setPpu val).events = s.events := rfl

@[simp] theorem State.setInputReads_a (s : State) (val : Nat) : (s.setInputReads val).a = s.a := rfl
@[simp] theorem State.setInputReads_x (s : State) (val : Nat) : (s.setInputReads val).x = s.x := rfl
@[simp] theorem State.setInputReads_y (s : State) (val : Nat) : (s.setInputReads val).y = s.y := rfl
@[simp] theorem State.setInputReads_sp (s : State) (val : Nat) : (s.setInputReads val).sp = s.sp := rfl
@[simp] theorem State.setInputReads_pc (s : State) (val : Nat) : (s.setInputReads val).pc = s.pc := rfl
@[simp] theorem State.setInputReads_flags (s : State) (val : Nat) : (s.setInputReads val).flags = s.flags := rfl
@[simp] theorem State.setInputReads_totalCycle (s : State) (val : Nat) : (s.setInputReads val).totalCycle = s.totalCycle := rfl
@[simp] theorem State.setInputReads_cycles (s : State) (val : Nat) : (s.setInputReads val).cycles = s.cycles := rfl
@[simp] theorem State.setInputReads_nmiServiced (s : State) (val : Nat) : (s.setInputReads val).nmiServiced = s.nmiServiced := rfl
@[simp] theorem State.setInputReads_cpuMem (s : State) (val : Nat) : (s.setInputReads val).cpuMem = s.cpuMem := rfl
@[simp] theorem State.setInputReads_ppu (s : State) (val : Nat) : (s.setInputReads val).ppu = s.ppu := rfl
@[simp] theorem State.setInputReads_params (s : State) (val : Nat) : (s.setInputReads val).params = s.params := rfl
@[simp] theorem State.setInputReads_inputReads (s : State) (val : Nat) : (s.setInputReads val).inputReads = val := rfl
@[simp] theorem State.setInputReads_events (s : State) (val : Nat) : (s.setInputReads val).events = s.events := rfl

@[simp] theorem State.setEvents_a (s : State) (val : List Event) : (s.setEvents val).a = s.a := rfl
@[simp] theorem State.setEvents_x (s : State) (val : List Event) : (s.setEvents val).x = s.x := rfl
@[simp] theorem State.setEvents_y (s : State) (val : List Event) : (s.setEvents val).y = s.y := rfl
@[simp] theorem State.setEvents_sp (s : State) (val : List Event) : (s.setEvents val).sp = s.sp := rfl
@[simp] theorem State.setEvents_pc (s : State) (val : List Event) : (s.setEvents val).pc = s.pc := rfl
@[simp] theorem State.setEvents_flags (s : State) (val : List Event) : (s.setEvents val).flags = s.flags := rfl
@[simp] theorem State.setEvents_totalCycle (s : State) (val : List Event) : (s.setEvents val).totalCycle = s.totalCycle := rfl
@[simp] theorem State.setEvents_cycles (s : State) (val : List Event) : (s.setEvents val).cycles = s.cycles := rfl
@[simp] theorem State.setEvents_nmiServiced (s : State) (val : List Event) : (s.setEvents val).nmiServiced = s.nmiServiced := rfl
@[simp] theorem State.setEvents_cpuMem (s : State) (val : List Event) : (s.setEvents val).cpuMem = s.cpuMem := rfl
@[simp] theorem State.setEvents_ppu (s : State) (val : List Event) : (s.setEvents val).ppu = s.ppu := rfl
@[simp] theorem State.setEvents_params (s : State) (val : List Event) : (s.setEvents val).params = s.params := rfl
@[simp] theorem State.setEvents_inputReads (s : State) (val : List Event) : (s.setEvents val).inputReads = s.inputReads := rfl
@[simp] theorem State.setEvents_events (s : State) (val : List Event) : (s.setEvents val).events = val := rfl

end Sys2Proof.Machine
end

