-- ==== Sys2Proof/Laws/Bus.lean ====
section
/-! SUPPORT. What the CPU bus, the stack and the exception operations can do, said once. -/

namespace Sys2Proof.Machine

/-! ### The decoder -/

theorem busTarget_of_lt (a : Word) (h : a < 0x2000) : busTarget a = .ram (a &&& 0x07FF).toNat := by
  rw [busTarget, if_pos h]

theorem busTarget_of_ge (a : Word) (h : 0x4018 ≤ a) : busTarget a = .flat a.toNat := by
  have h1 : ¬ a < 0x2000 := by bv_omega
  have h2 : ¬ a < 0x4000 := by bv_omega
  have h3 : ¬ a = 0x4014 := by bv_omega
  have h4 : ¬ a = 0x4016 := by bv_omega
  have h5 : ¬ a < 0x4018 := by bv_omega
  rw [busTarget, if_neg h1, if_neg h2, if_neg h3, if_neg h4, if_neg h5]

/-- Outside the ports an address is internal RAM or a flat cell. -/
theorem busTarget_of_not_port (a : Word) (h : isPort a = false) :
    (a < 0x2000 ∧ busTarget a = .ram (a &&& 0x07FF).toNat) ∨ (0x4018 ≤ a ∧ busTarget a = .flat a.toNat) := by
  simp only [isPort, Bool.and_eq_false_iff, decide_eq_false_iff_not] at h
  rcases h with h | h
  · left
    have h' : a < 0x2000 := by bv_omega
    exact ⟨h', busTarget_of_lt a h'⟩
  · right
    have h' : 0x4018 ≤ a := by bv_omega
    exact ⟨h', busTarget_of_ge a h'⟩

/-- A RAM cell is below 0x800. -/
theorem ramCell_lt (a : Word) : (a &&& 0x07FF).toNat < 0x800 := by
  have : (a &&& 0x07FF).toNat ≤ 0x7FF := by
    rw [BitVec.toNat_and]
    exact Nat.and_le_right
  omega

/-! ### Reads -/

/-- Outside the ports a bus read is a peek and changes nothing (rule R81). -/
theorem memRead_of_not_port (a : Word) (s : State) (h : isPort a = false) : memRead a s = (peek s a, s) := by
  rcases busTarget_of_not_port a h with ⟨_, ht⟩ | ⟨_, ht⟩ <;> simp [memRead, peek, ht]

/-- What a bus read may change: the picture unit, the NMI latch, the input count and the events. -/
theorem memRead_frame (a : Word) (s : State) :
    ∃ (p : Ppu) (nmi : Bool) (n : Nat) (ev : List Event),
      (memRead a s).2 = { s with ppu := p, nmiServiced := nmi, inputReads := n, events := ev } := by
  unfold memRead
  split
  · exact ⟨s.ppu, s.nmiServiced, s.inputReads, s.events, rfl⟩
  · unfold ppuPortRead
    split
    · exact ⟨_, _, s.inputReads, s.events, rfl⟩
    · split
      · exact ⟨s.ppu, s.nmiServiced, s.inputReads, s.events, rfl⟩
      · split
        · exact ⟨_, s.nmiServiced, s.inputReads, s.events, rfl⟩
        · exact ⟨s.ppu, s.nmiServiced, s.inputReads, s.events, rfl⟩
  · exact ⟨s.ppu, s.nmiServiced, s.inputReads, s.events, rfl⟩
  · exact ⟨s.ppu, s.nmiServiced, _, _, rfl⟩
  · exact ⟨s.ppu, s.nmiServiced, s.inputReads, s.events, rfl⟩
  · exact ⟨s.ppu, s.nmiServiced, s.inputReads, s.events, rfl⟩

@[simp] theorem memRead_a (a : Word) (s : State) : (memRead a s).2.a = s.a := by
  obtain ⟨p, nmi, n, ev, h⟩ := memRead_frame a s; rw [h]
@[simp] theorem memRead_x (a : Word) (s : State) : (memRead a s).2.x = s.x := by
  obtain ⟨p, nmi, n, ev, h⟩ := memRead_frame a s; rw [h]
@[simp] theorem memRead_y (a : Word) (s : State) : (memRead a s).2.y = s.y := by
  obtain ⟨p, nmi, n, ev, h⟩ := memRead_frame a s; rw [h]
@[simp] theorem memRead_sp (a : Word) (s : State) : (memRead a s).2.sp = s.sp := by
  obtain ⟨p, nmi, n, ev, h⟩ := memRead_frame a s; rw [h]
@[simp] theorem memRead_pc (a : Word) (s : State) : (memRead a s).2.pc = s.pc := by
  obtain ⟨p, nmi, n, ev, h⟩ := memRead_frame a s; rw [h]
@[simp] theorem memRead_flags (a : Word) (s : State) : (memRead a s).2.flags = s.flags := by
  obtain ⟨p, nmi, n, ev, h⟩ := memRead_frame a s; rw [h]
@[simp] theorem memRead_totalCycle (a : Word) (s : State) : (memRead a s).2.totalCycle = s.totalCycle := by
  obtain ⟨p, nmi, n, ev, h⟩ := memRead_frame a s; rw [h]
@[simp] theorem memRead_cycles (a : Word) (s : State) : (memRead a s).2.cycles = s.cycles := by
  obtain ⟨p, nmi, n, ev, h⟩ := memRead_frame a s; rw [h]
@[simp] theorem memRead_cpuMem (a : Word) (s : State) : (memRead a s).2.cpuMem = s.cpuMem := by
  obtain ⟨p, nmi, n, ev, h⟩ := memRead_frame a s; rw [h]
@[simp] theorem memRead_params (a : Word) (s : State) : (memRead a s).2.params = s.params := by
  obtain ⟨p, nmi, n, ev, h⟩ := memRead_frame a s; rw [h]

/-! ### Writes -/

/-- What a bus write may do: refuse (a DMA from a port page), or answer a state that differs from the old one in the
memory array, the picture unit, the events and the cycles only. -/
theorem memWrite_cases (a : Word) (v : Byte) (s : State) :
    (memWrite a v s = .refused .dmaFromPort ∧ a = 0x4014 ∧ 0x20 ≤ v ∧ v ≤ 0x40) ∨
    ∃ (m : Memory) (p : Ppu) (ev : List Event) (n : Nat),
      memWrite a v s = .next { s with cpuMem := m, ppu := p, events := ev, cycles := n } := by
  unfold memWrite
  split
  · exact .inr ⟨_, s.ppu, s.events, s.cycles, rfl⟩
  · exact .inr ⟨s.cpuMem, _, s.events, s.cycles, rfl⟩
  · rename_i ht
    unfold oamDma
    split
    · rename_i hp
      refine .inl ⟨rfl, ?_, hp.1, hp.2⟩
      unfold busTarget at ht
      split at ht
      · cases ht
      · split at ht
        · cases ht
        · split at ht
          · assumption
          · split at ht
            · cases ht
            · split at ht <;> cases ht
    · exact .inr ⟨s.cpuMem, _, s.events, _, rfl⟩
  · exact .inr ⟨s.cpuMem, s.ppu, _, s.cycles, rfl⟩
  · exact .inr ⟨s.cpuMem, s.ppu, s.events, s.cycles, rfl⟩
  · unfold flatWrite
    split
    · exact .inr ⟨s.cpuMem, s.ppu, s.events, s.cycles, rfl⟩
    · exact .inr ⟨_, s.ppu, s.events, s.cycles, rfl⟩

/-! ### The stack -/

theorem stackAddr_toNat (sp : Byte) : (stackAddr sp).toNat = 0x100 + sp.toNat := by
  unfold stackAddr mkWord
  have h := Nat.two_pow_add_eq_or_of_lt (i := 8) (b := sp.toNat) sp.isLt 1
  rw [BitVec.toNat_append, Nat.shiftLeft_eq]
  exact h.symm

theorem stackAddr_ram (sp : Byte) : busTarget (stackAddr sp) = .ram (stackAddr sp).toNat := by
  have h := stackAddr_toNat sp
  have hs := sp.isLt
  have h1 : stackAddr sp < 0x2000 := by
    rw [BitVec.lt_def, h]; simp; omega
  rw [busTarget_of_lt _ h1]
  congr 1
  rw [BitVec.toNat_and, h]
  have : (0x07FF : Word).toNat = 2 ^ 11 - 1 := rfl
  rw [this, Nat.and_two_pow_sub_one_eq_mod]
  omega

/-- A push is the bus write of rule R43. -/
theorem push8_eq_memWrite (v : Byte) (s : State) :
    andThen (memWrite (stackAddr s.sp) v s) (fun t => .next (t.setSp (s.sp - 1))) = .next (push8 v s) := by
  simp [memWrite, stackAddr_ram, andThen, push8, State.setCpuMem, State.setSp]

/-- A peek at a stack address reads the cell of that address. -/
theorem peek_stack (s : State) (sp : Byte) : peek s (stackAddr sp) = s.cpuMem.read (stackAddr sp).toNat := by
  simp [peek, stackAddr_ram]

/-- A pull is the bus read of rule R44. -/
theorem pull8_eq_memRead (s : State) :
    ((memRead (stackAddr (s.sp + 1)) s).1, (memRead (stackAddr (s.sp + 1)) s).2.setSp (s.sp + 1)) = pull8 s := by
  simp [memRead, stackAddr_ram, pull8, peek]

theorem stackAddr_inj (p q : Byte) : (stackAddr p).toNat = (stackAddr q).toNat ↔ p = q := by
  rw [stackAddr_toNat, stackAddr_toNat]
  constructor
  · intro h; exact BitVec.eq_of_toNat_eq (by omega)
  · intro h; rw [h]

/-- A pull after a push gives the byte back and the stack pointer as it was. -/
theorem pull8_push8 (v : Byte) (s : State) :
    (pull8 (push8 v s)).1 = v ∧ (pull8 (push8 v s)).2.sp = s.sp := by
  have h : s.sp - 1 + 1 = s.sp := by bv_omega
  simp [pull8, push8, peek_stack, State.setSp]

/-! ### The sequencing of an instruction's parts -/

/-- A sequence that answers a next state went through one. -/
theorem andThen_next {r : Result} {k : State → Result} {t : State} (h : andThen r k = .next t) :
    ∃ u, r = .next u ∧ k u = .next t := by
  cases r with
  | next u => exact ⟨u, rfl, h⟩
  | fault e => exact nomatch e
  | refused e => simp [andThen] at h

/-- A sequence that is refused was refused in its first or in its second part. -/
theorem andThen_refused {r : Result} {k : State → Result} {e : Refusal} (h : andThen r k = .refused e) :
    r = .refused e ∨ ∃ u, r = .next u ∧ k u = .refused e := by
  cases r with
  | next u => exact .inr ⟨u, rfl, h⟩
  | fault e => exact nomatch e
  | refused e' => exact .inl (by simpa [andThen] using h)

end Sys2Proof.Machine
end

