-- ==== Sys2Proof/Laws/Exec.lean ====
section
/-! SUPPORT. What the shared parts of the instructions can do: the end of an instruction, the uses of an operand, exception
entry and return, and what any instruction at all may change. -/

namespace Sys2Proof.Machine

/-! ### The end of an instruction -/

@[simp] theorem retire_a (n c : Nat) (s : State) : (retire n c s).a = s.a := rfl
@[simp] theorem retire_x (n c : Nat) (s : State) : (retire n c s).x = s.x := rfl
@[simp] theorem retire_y (n c : Nat) (s : State) : (retire n c s).y = s.y := rfl
@[simp] theorem retire_sp (n c : Nat) (s : State) : (retire n c s).sp = s.sp := rfl
@[simp] theorem retire_pc (n c : Nat) (s : State) : (retire n c s).pc = s.pc + BitVec.ofNat 16 n := rfl
@[simp] theorem retire_flags (n c : Nat) (s : State) : (retire n c s).flags = s.flags := rfl
@[simp] theorem retire_cycles (n c : Nat) (s : State) : (retire n c s).cycles = s.cycles + c := rfl
@[simp] theorem retire_totalCycle (n c : Nat) (s : State) : (retire n c s).totalCycle = s.totalCycle := rfl
@[simp] theorem retire_nmiServiced (n c : Nat) (s : State) : (retire n c s).nmiServiced = s.nmiServiced := rfl
@[simp] theorem retire_cpuMem (n c : Nat) (s : State) : (retire n c s).cpuMem = s.cpuMem := rfl
@[simp] theorem retire_ppu (n c : Nat) (s : State) : (retire n c s).ppu = s.ppu := rfl
@[simp] theorem retire_params (n c : Nat) (s : State) : (retire n c s).params = s.params := rfl
@[simp] theorem retire_inputReads (n c : Nat) (s : State) : (retire n c s).inputReads = s.inputReads := rfl
@[simp] theorem retire_events (n c : Nat) (s : State) : (retire n c s).events = s.events := rfl

/-! ### Operands -/

/-- What reading an operand may change: the picture unit, the NMI latch, the input count and the events. -/
theorem loadOperand_frame (o : ReadOperand) (s : State) :
    ∃ (p : Ppu) (nmi : Bool) (n : Nat) (ev : List Event),
      (loadOperand o s).2 = { s with ppu := p, nmiServiced := nmi, inputReads := n, events := ev } := by
  cases o with
  | imm b => exact ⟨s.ppu, s.nmiServiced, s.inputReads, s.events, rfl⟩
  | mem m => exact memRead_frame _ s

@[simp] theorem loadOperand_a (o : ReadOperand) (s : State) : (loadOperand o s).2.a = s.a := by
  obtain ⟨p, nmi, n, ev, h⟩ := loadOperand_frame o s; rw [h]
@[simp] theorem loadOperand_x (o : ReadOperand) (s : State) : (loadOperand o s).2.x = s.x := by
  obtain ⟨p, nmi, n, ev, h⟩ := loadOperand_frame o s; rw [h]
@[simp] theorem loadOperand_y (o : ReadOperand) (s : State) : (loadOperand o s).2.y = s.y := by
  obtain ⟨p, nmi, n, ev, h⟩ := loadOperand_frame o s; rw [h]
@[simp] theorem loadOperand_sp (o : ReadOperand) (s : State) : (loadOperand o s).2.sp = s.sp := by
  obtain ⟨p, nmi, n, ev, h⟩ := loadOperand_frame o s; rw [h]
@[simp] theorem loadOperand_pc (o : ReadOperand) (s : State) : (loadOperand o s).2.pc = s.pc := by
  obtain ⟨p, nmi, n, ev, h⟩ := loadOperand_frame o s; rw [h]
@[simp] theorem loadOperand_flags (o : ReadOperand) (s : State) : (loadOperand o s).2.flags = s.flags := by
  obtain ⟨p, nmi, n, ev, h⟩ := loadOperand_frame o s; rw [h]
@[simp] theorem loadOperand_cycles (o : ReadOperand) (s : State) : (loadOperand o s).2.cycles = s.cycles := by
  obtain ⟨p, nmi, n, ev, h⟩ := loadOperand_frame o s; rw [h]
@[simp] theorem loadOperand_totalCycle (o : ReadOperand) (s : State) :
    (loadOperand o s).2.totalCycle = s.totalCycle := by
  obtain ⟨p, nmi, n, ev, h⟩ := loadOperand_frame o s; rw [h]
@[simp] theorem loadOperand_cpuMem (o : ReadOperand) (s : State) : (loadOperand o s).2.cpuMem = s.cpuMem := by
  obtain ⟨p, nmi, n, ev, h⟩ := loadOperand_frame o s; rw [h]
@[simp] theorem loadOperand_params (o : ReadOperand) (s : State) : (loadOperand o s).2.params = s.params := by
  obtain ⟨p, nmi, n, ev, h⟩ := loadOperand_frame o s; rw [h]

/-- A class R instruction always completes: the operand is read once, the effect applied, the instruction retired. -/
theorem execRead_eq (o : ReadOperand) (effect : Byte → State → State) (s : State) :
    execRead o effect s =
      .next (retire (readLength o) (readCost o s) (effect (loadOperand o s).1 (loadOperand o s).2)) := rfl

/-- A one-byte two-cycle instruction always completes. -/
theorem execImplied_eq (effect : State → State) (s : State) :
    execImplied effect s = .next (retire 1 2 (effect s)) := rfl

/-- A class W instruction completes or is the refused DMA. -/
theorem execStore_cases (m : MemOperand) (val : Byte) (s : State) :
    (execStore m val s = .refused .dmaFromPort ∧ (effAddr m s).ea = 0x4014 ∧ 0x20 ≤ val ∧ val ≤ 0x40) ∨
    ∃ u, memWrite (effAddr m s).ea val s = .next u ∧
      execStore m val s = .next (retire (memLength m) (writeCycles m) u) := by
  rcases memWrite_cases (effAddr m s).ea val s with ⟨h, h1, h2, h3⟩ | ⟨mem, p, ev, n, h⟩
  · exact .inl ⟨by simp [execStore, h, andThen], h1, h2, h3⟩
  · exact .inr ⟨_, h, by simp [execStore, h, andThen]⟩

/-- A class RMW instruction in a memory mode completes or is the refused DMA. -/
theorem execRmw_cases (m : MemOperand) (op : ByteOp) (s : State) :
    let r := memRead (effAddr m s).ea s
    let out := op r.1 r.2.flags
    (execRmw m op s = .refused .dmaFromPort ∧ (effAddr m s).ea = 0x4014 ∧ 0x20 ≤ out.1 ∧ out.1 ≤ 0x40) ∨
    ∃ u, memWrite (effAddr m s).ea out.1 (r.2.setFlags out.2) = .next u ∧
      execRmw m op s = .next (retire (memLength m) (rmwCycles m) u) := by
  intro r out
  rcases memWrite_cases (effAddr m s).ea out.1 (r.2.setFlags out.2) with ⟨h, h1, h2, h3⟩ | ⟨mem, p, ev, n, h⟩
  · exact .inl ⟨by simp only [execRmw]; rw [h]; rfl, h1, h2, h3⟩
  · exact .inr ⟨_, h, by simp only [execRmw]; rw [h]; rfl⟩

/-- A shift completes or is the refused DMA of its memory form. -/
theorem execShift_cases (o : ShiftOperand) (op : ByteOp) (s : State) :
    (execShift o op s = .refused .dmaFromPort ∧ ∃ m, o = .mem m ∧ (effAddr m s).ea = 0x4014) ∨
    ∃ t, execShift o op s = .next t := by
  cases o with
  | acc => exact .inr ⟨_, rfl⟩
  | mem m =>
    rcases execRmw_cases m op s with ⟨h, h1, -⟩ | ⟨u, -, h⟩
    · exact .inl ⟨h, m, rfl, h1⟩
    · exact .inr ⟨_, h⟩

/-! ### Exceptions -/

/-- What exception entry changes: the stack page, `SP`, the flag `I` and `PC`. -/
theorem enterInterrupt_frame (ret : Word) (status : Byte) (vector : Word) (s : State) :
    ∃ (m : Memory) (pc : Word),
      enterInterrupt ret status vector s =
        { s with cpuMem := m, sp := s.sp - 1 - 1 - 1, flags := { s.flags with i := true }, pc := pc } :=
  ⟨_, _, rfl⟩

/-- The bytes exception entry leaves in the CPU array. -/
theorem enterInterrupt_read (ret : Word) (status : Byte) (vector : Word) (s : State) (k : Nat) :
    (enterInterrupt ret status vector s).cpuMem.read k =
      if k = 0x100 + (s.sp - 1 - 1).toNat then status
      else if k = 0x100 + (s.sp - 1).toNat then lo8 ret
      else if k = 0x100 + s.sp.toNat then hi8 ret
      else s.cpuMem.read k := by
  simp [enterInterrupt, push16, push8, stackAddr_toNat]

/-- What a return from an exception changes: the flags, `SP` and `PC`. -/
theorem returnFromInterrupt_frame (s : State) :
    ∃ (f : Flags) (pc : Word),
      returnFromInterrupt s = { s with flags := f, sp := s.sp + 1 + 1 + 1, pc := pc } ∧ f.b = s.flags.b :=
  ⟨_, _, rfl, rfl⟩

end Sys2Proof.Machine
end

