-- ==== Sys2Proof/Laws/Memory.lean ====
section
/-! SUPPORT. Every operation that writes one of the machine's arrays keeps its canonical form, and the arrays of
`State.reset` have it. -/

namespace Sys2Proof.Machine

/-! ### The state after reset -/

theorem State.reset_cpuMem_wf : State.reset.cpuMem.wf 0x10000 = true := by decide

theorem State.reset_ppuMem_wf : State.reset.ppu.mem.wf 0x4000 = true := by decide

theorem State.reset_oam_wf : State.reset.ppu.oam.wf 256 = true := by decide

theorem State.reset_secOam_wf : Cells.wf secOamFill 32 State.reset.ppu.secOam = true := by decide

theorem State.reset_spriteBuf_wf : Cells.wf SpritePixel.unwritten 256 State.reset.ppu.spriteBuf = true := by decide

/-! ### The CPU array -/

/-- A completed bus write keeps the CPU array's canonical form. -/
theorem memWrite_cpuMem_wf {a : Word} {v : Byte} {s t : State} (h : memWrite a v s = .next t)
    (hs : s.cpuMem.wf 0x10000 = true) : t.cpuMem.wf 0x10000 = true := by
  unfold memWrite at h
  split at h
  · rename_i cell ht
    cases h
    refine Memory.wf_write _ _ _ _ ?_ hs
    unfold busTarget at ht
    split at ht
    · cases ht
      exact lt_trans (ramCell_lt a) (by decide)
    · split at ht
      · cases ht
      · split at ht
        · cases ht
        · split at ht
          · cases ht
          · split at ht <;> cases ht
  · cases h; exact hs
  · unfold oamDma at h
    split at h
    · cases h
    · cases h; exact hs
  · cases h; exact hs
  · cases h; exact hs
  · rename_i cell ht
    cases h
    unfold flatWrite
    split
    · exact hs
    · refine Memory.wf_write _ _ _ _ ?_ hs
      unfold busTarget at ht
      split at ht
      · cases ht
      · split at ht
        · cases ht
        · split at ht
          · cases ht
          · split at ht
            · cases ht
            · split at ht
              · cases ht
              · cases ht
                exact a.isLt

/-- A push keeps the CPU array's canonical form. -/
theorem push8_cpuMem_wf {v : Byte} {s : State} (hs : s.cpuMem.wf 0x10000 = true) :
    (push8 v s).cpuMem.wf 0x10000 = true :=
  Memory.wf_write _ _ _ _ (stackAddr s.sp).isLt hs

/-- Exception entry keeps the CPU array's canonical form. -/
theorem enterInterrupt_cpuMem_wf {ret : Word} {status : Byte} {vector : Word} {s : State}
    (hs : s.cpuMem.wf 0x10000 = true) : (enterInterrupt ret status vector s).cpuMem.wf 0x10000 = true :=
  push8_cpuMem_wf (push8_cpuMem_wf (push8_cpuMem_wf hs))

/-- The placing of an instruction keeps the CPU array's canonical form. -/
theorem placeBytes_cpuMem_wf {s : State} {b0 b1 b2 : Byte} (hs : s.cpuMem.wf 0x10000 = true) :
    (placeBytes s b0 b1 b2).cpuMem.wf 0x10000 = true := by
  have hc : ∀ a : Word, codeCell a < 0x10000 := by
    intro a
    unfold codeCell
    split
    · exact lt_trans (ramCell_lt a) (by decide)
    · exact a.isLt
  exact Memory.wf_write _ _ _ _ (hc _) (Memory.wf_write _ _ _ _ (hc _) (Memory.wf_write _ _ _ _ (hc _) hs))

/-! ### The picture unit's arrays -/

/-- The copy of a DMA keeps the OAM's canonical form. -/
theorem oamCopy_wf {s : State} {page : Byte} (n : Nat) (hn : n ≤ 256) (hs : s.ppu.oam.wf 256 = true) :
    (oamCopy s page n).wf 256 = true := by
  induction n with
  | zero => exact hs
  | succ n ih => exact Memory.wf_write _ _ _ _ (by omega) (ih (by omega))

/-- A cell of the picture unit's decoder lies in its array. -/
theorem ppuCell_lt (mi : Mirroring) (a : Word) : (ppuCell mi a).toNat < 0x4000 := by
  have hand : ∀ x m : Word, (x &&& m).toNat ≤ m.toNat := by
    intro x m
    rw [BitVec.toNat_and]
    exact Nat.and_le_right
  have h0 := hand a 0x3FFF
  unfold ppuCell
  dsimp only
  split
  · rename_i h
    rw [BitVec.lt_def] at h
    exact lt_trans h (by decide)
  · have hnt : ∀ x : Word, (ntCell mi x).toNat < 0x4000 := by
      intro x
      cases mi
      · exact lt_of_le_of_lt (hand x 0x37FF) (by decide)
      · exact lt_of_le_of_lt (hand x 0x3BFF) (by decide)
    split
    · exact hnt _
    · split
      · exact hnt _
      · have hp : ∀ x : BitVec 5, (palCell (x.setWidth 16)).toNat < 0x4000 := by decide
        have he : palCell (a &&& 0x3FFF) = palCell (((a &&& 0x3FFF).setWidth 5).setWidth 16) := by
          have hm : ((((a &&& 0x3FFF).setWidth 5).setWidth 16 : Word) &&& 0x1F) = (a &&& 0x3FFF) &&& 0x1F := by
            ext i hi
            simp only [BitVec.getElem_and, BitVec.getElem_setWidth, BitVec.getLsbD_and, BitVec.getLsbD_setWidth]
            interval_cases i <;> simp
          unfold palCell
          rw [hm]
        rw [he]
        exact hp _

/-- A write through the picture unit's decoder keeps its array's canonical form. -/
theorem Ppu.write_mem_wf {p : Ppu} {a : Word} {v : Byte} (h : p.mem.wf 0x4000 = true) :
    (p.write a v).mem.wf 0x4000 = true :=
  Memory.wf_write _ _ _ _ (ppuCell_lt _ _) h

/-- A write to a port keeps the canonical forms of the picture unit's array and of OAM. -/
theorem ppuPortWrite_wf {port : BitVec 3} {v : Byte} {p : Ppu} (hm : p.mem.wf 0x4000 = true)
    (ho : p.oam.wf 256 = true) :
    (ppuPortWrite port v p).mem.wf 0x4000 = true ∧ (ppuPortWrite port v p).oam.wf 256 = true := by
  unfold ppuPortWrite
  split
  · exact ⟨hm, ho⟩
  · split
    · exact ⟨hm, ho⟩
    · split
      · exact ⟨hm, ho⟩
      · split
        · exact ⟨hm, ho⟩
        · split
          · exact ⟨hm, Memory.wf_write _ _ _ _ p.oamAddr.isLt ho⟩
          · split
            · unfold scrollWrite; split <;> exact ⟨hm, ho⟩
            · split
              · unfold addrWrite; split <;> exact ⟨hm, ho⟩
              · exact ⟨Ppu.write_mem_wf hm, ho⟩

/-- A write of secondary OAM inside the array keeps its canonical form. -/
theorem secOamWrite_wf {k : Nat} {v : Byte} {p : Ppu} (hk : k < 32)
    (h : Cells.wf secOamFill 32 p.secOam = true) : Cells.wf secOamFill 32 (secOamWrite k v p).secOam = true :=
  Cells.wf_write _ _ _ _ _ hk h

/-- Putting a sprite pixel keeps the buffer's canonical form. -/
theorem putSpritePixel_wf {pix : SpritePixel} {col : Nat} {buf : Cells SpritePixel}
    (h : Cells.wf SpritePixel.unwritten 256 buf = true) :
    Cells.wf SpritePixel.unwritten 256 (putSpritePixel pix col buf) = true := by
  unfold putSpritePixel
  split
  · rename_i hc
    exact Cells.wf_write _ _ _ _ _ (by omega) h
  · exact h

/-- A sprite fetch keeps the buffer's canonical form. -/
theorem fetchSlot_spriteBuf_wf {k : Nat} {p : Ppu} (h : Cells.wf SpritePixel.unwritten 256 p.spriteBuf = true) :
    Cells.wf SpritePixel.unwritten 256 (fetchSlot k p).spriteBuf = true := by
  unfold fetchSlot
  split
  · have hf : ∀ (l : List Nat) (pix : Nat → SpritePixel) (x : Nat) (buf : Cells SpritePixel),
        Cells.wf SpritePixel.unwritten 256 buf = true →
        Cells.wf SpritePixel.unwritten 256 (l.foldl (fun b j => putSpritePixel (pix j) (x + j) b) buf) = true := by
      intro l pix x
      induction l with
      | nil => intro buf hb; exact hb
      | cons j l ih => intro buf hb; exact ih _ (putSpritePixel_wf hb)
    exact hf _ _ _ _ h
  · exact h

end Sys2Proof.Machine
end

