-- ==== Sys2Proof/Laws/PerInstr.lean ====
section
/-! SUPPORT. A property of every instruction as syntax: its words have the length its opcode byte announces. -/

namespace Sys2Proof.Laws.WordShape

/-- The words of a well-formed instruction are an opcode byte and the operand bytes the format of that byte has (rules
R140, R142). -/
def Statement (i : Instr) : Prop :=
  i.wf = true → ∃ (op : Byte) (rest : List Byte), encode i = op :: rest ∧ (opcodeMap op).length = 1 + rest.length

theorem lda (o : ReadOperand) : Statement (.lda o) := by
  intro h
  cases o with
  | imm b => exact ⟨_, _, rfl, rfl⟩
  | mem m => cases m <;> first | exact ⟨_, _, rfl, rfl⟩ | cases h

theorem ldx (o : ReadOperand) : Statement (.ldx o) := by
  intro h
  cases o with
  | imm b => exact ⟨_, _, rfl, rfl⟩
  | mem m => cases m <;> first | exact ⟨_, _, rfl, rfl⟩ | cases h

theorem ldy (o : ReadOperand) : Statement (.ldy o) := by
  intro h
  cases o with
  | imm b => exact ⟨_, _, rfl, rfl⟩
  | mem m => cases m <;> first | exact ⟨_, _, rfl, rfl⟩ | cases h

theorem sta (m : MemOperand) : Statement (.sta m) := by
  intro h; cases m <;> first | exact ⟨_, _, rfl, rfl⟩ | cases h

theorem stx (m : MemOperand) : Statement (.stx m) := by
  intro h; cases m <;> first | exact ⟨_, _, rfl, rfl⟩ | cases h

theorem sty (m : MemOperand) : Statement (.sty m) := by
  intro h; cases m <;> first | exact ⟨_, _, rfl, rfl⟩ | cases h

theorem tax : Statement .tax := by
  intro _; exact ⟨_, _, rfl, rfl⟩

theorem tay : Statement .tay := by
  intro _; exact ⟨_, _, rfl, rfl⟩

theorem txa : Statement .txa := by
  intro _; exact ⟨_, _, rfl, rfl⟩

theorem tya : Statement .tya := by
  intro _; exact ⟨_, _, rfl, rfl⟩

theorem tsx : Statement .tsx := by
  intro _; exact ⟨_, _, rfl, rfl⟩

theorem txs : Statement .txs := by
  intro _; exact ⟨_, _, rfl, rfl⟩

theorem adc (o : ReadOperand) : Statement (.adc o) := by
  intro h
  cases o with
  | imm b => exact ⟨_, _, rfl, rfl⟩
  | mem m => cases m <;> first | exact ⟨_, _, rfl, rfl⟩ | cases h

theorem sbc (o : ReadOperand) : Statement (.sbc o) := by
  intro h
  cases o with
  | imm b => exact ⟨_, _, rfl, rfl⟩
  | mem m => cases m <;> first | exact ⟨_, _, rfl, rfl⟩ | cases h

theorem and (o : ReadOperand) : Statement (.and o) := by
  intro h
  cases o with
  | imm b => exact ⟨_, _, rfl, rfl⟩
  | mem m => cases m <;> first | exact ⟨_, _, rfl, rfl⟩ | cases h

theorem ora (o : ReadOperand) : Statement (.ora o) := by
  intro h
  cases o with
  | imm b => exact ⟨_, _, rfl, rfl⟩
  | mem m => cases m <;> first | exact ⟨_, _, rfl, rfl⟩ | cases h

theorem eor (o : ReadOperand) : Statement (.eor o) := by
  intro h
  cases o with
  | imm b => exact ⟨_, _, rfl, rfl⟩
  | mem m => cases m <;> first | exact ⟨_, _, rfl, rfl⟩ | cases h

theorem cmp (o : ReadOperand) : Statement (.cmp o) := by
  intro h
  cases o with
  | imm b => exact ⟨_, _, rfl, rfl⟩
  | mem m => cases m <;> first | exact ⟨_, _, rfl, rfl⟩ | cases h

theorem cpx (o : ReadOperand) : Statement (.cpx o) := by
  intro h
  cases o with
  | imm b => exact ⟨_, _, rfl, rfl⟩
  | mem m => cases m <;> first | exact ⟨_, _, rfl, rfl⟩ | cases h

theorem cpy (o : ReadOperand) : Statement (.cpy o) := by
  intro h
  cases o with
  | imm b => exact ⟨_, _, rfl, rfl⟩
  | mem m => cases m <;> first | exact ⟨_, _, rfl, rfl⟩ | cases h

theorem bit (m : MemOperand) : Statement (.bit m) := by
  intro h; cases m <;> first | exact ⟨_, _, rfl, rfl⟩ | cases h

theorem asl (o : ShiftOperand) : Statement (.asl o) := by
  intro h
  cases o with
  | acc => exact ⟨_, _, rfl, rfl⟩
  | mem m => cases m <;> first | exact ⟨_, _, rfl, rfl⟩ | cases h

theorem lsr (o : ShiftOperand) : Statement (.lsr o) := by
  intro h
  cases o with
  | acc => exact ⟨_, _, rfl, rfl⟩
  | mem m => cases m <;> first | exact ⟨_, _, rfl, rfl⟩ | cases h

theorem rol (o : ShiftOperand) : Statement (.rol o) := by
  intro h
  cases o with
  | acc => exact ⟨_, _, rfl, rfl⟩
  | mem m => cases m <;> first | exact ⟨_, _, rfl, rfl⟩ | cases h

theorem ror (o : ShiftOperand) : Statement (.ror o) := by
  intro h
  cases o with
  | acc => exact ⟨_, _, rfl, rfl⟩
  | mem m => cases m <;> first | exact ⟨_, _, rfl, rfl⟩ | cases h

theorem inc (m : MemOperand) : Statement (.inc m) := by
  intro h; cases m <;> first | exact ⟨_, _, rfl, rfl⟩ | cases h

theorem dec (m : MemOperand) : Statement (.dec m) := by
  intro h; cases m <;> first | exact ⟨_, _, rfl, rfl⟩ | cases h

theorem inx : Statement .inx := by
  intro _; exact ⟨_, _, rfl, rfl⟩

theorem iny : Statement .iny := by
  intro _; exact ⟨_, _, rfl, rfl⟩

theorem dex : Statement .dex := by
  intro _; exact ⟨_, _, rfl, rfl⟩

theorem dey : Statement .dey := by
  intro _; exact ⟨_, _, rfl, rfl⟩

theorem bcc (rel : Byte) : Statement (.bcc rel) := by
  intro _; exact ⟨_, _, rfl, rfl⟩

theorem bcs (rel : Byte) : Statement (.bcs rel) := by
  intro _; exact ⟨_, _, rfl, rfl⟩

theorem beq (rel : Byte) : Statement (.beq rel) := by
  intro _; exact ⟨_, _, rfl, rfl⟩

theorem bne (rel : Byte) : Statement (.bne rel) := by
  intro _; exact ⟨_, _, rfl, rfl⟩

theorem bmi (rel : Byte) : Statement (.bmi rel) := by
  intro _; exact ⟨_, _, rfl, rfl⟩

theorem bpl (rel : Byte) : Statement (.bpl rel) := by
  intro _; exact ⟨_, _, rfl, rfl⟩

theorem bvc (rel : Byte) : Statement (.bvc rel) := by
  intro _; exact ⟨_, _, rfl, rfl⟩

theorem bvs (rel : Byte) : Statement (.bvs rel) := by
  intro _; exact ⟨_, _, rfl, rfl⟩

theorem jmp (o : JumpOperand) : Statement (.jmp o) := by
  intro _; cases o <;> exact ⟨_, _, rfl, rfl⟩

theorem jsr (target : Word) : Statement (.jsr target) := by
  intro _; exact ⟨_, _, rfl, rfl⟩

theorem rts : Statement .rts := by
  intro _; exact ⟨_, _, rfl, rfl⟩

theorem pha : Statement .pha := by
  intro _; exact ⟨_, _, rfl, rfl⟩

theorem php : Statement .php := by
  intro _; exact ⟨_, _, rfl, rfl⟩

theorem pla : Statement .pla := by
  intro _; exact ⟨_, _, rfl, rfl⟩

theorem plp : Statement .plp := by
  intro _; exact ⟨_, _, rfl, rfl⟩

theorem clc : Statement .clc := by
  intro _; exact ⟨_, _, rfl, rfl⟩

theorem sec : Statement .sec := by
  intro _; exact ⟨_, _, rfl, rfl⟩

theorem cli : Statement .cli := by
  intro _; exact ⟨_, _, rfl, rfl⟩

theorem sei : Statement .sei := by
  intro _; exact ⟨_, _, rfl, rfl⟩

theorem cld : Statement .cld := by
  intro _; exact ⟨_, _, rfl, rfl⟩

theorem sed : Statement .sed := by
  intro _; exact ⟨_, _, rfl, rfl⟩

theorem clv : Statement .clv := by
  intro _; exact ⟨_, _, rfl, rfl⟩

theorem nop : Statement .nop := by
  intro _; exact ⟨_, _, rfl, rfl⟩

theorem brk : Statement .brk := by
  intro _; exact ⟨_, _, rfl, rfl⟩

theorem rti : Statement .rti := by
  intro _; exact ⟨_, _, rfl, rfl⟩

theorem unknown (op : Byte) : Statement (.unknown op) := by
  intro h
  refine ⟨op, [], rfl, ?_⟩
  have key : ∀ b : Byte, unknownOpcodes.contains b = true → (opcodeMap b).length = 1 := by decide +kernel
  exact key op h

end Sys2Proof.Laws.WordShape
end

