-- ==== Sys2Proof/Laws/Ppu.lean ====
section
/-! SUPPORT. What the parts of a dot, a dot and a run of dots can do to the picture unit and to the state around it. -/

namespace Sys2Proof.Machine

/-- The registers and memories of the picture unit that only the ports write are the same in `q` as in `p`. -/
structure SamePorts (p q : Ppu) : Prop where
  ctrl : q.ctrl = p.ctrl
  mask : q.mask = p.mask
  t : q.t = p.t
  fineX : q.fineX = p.fineX
  w : q.w = p.w
  oamAddr : q.oamAddr = p.oamAddr
  readBuffer : q.readBuffer = p.readBuffer
  mirroring : q.mirroring = p.mirroring
  mem : q.mem = p.mem
  oam : q.oam = p.oam

/-- The dot counters are the same. -/
structure SamePosition (p q : Ppu) : Prop where
  cycle : q.cycle = p.cycle
  scanline : q.scanline = p.scanline
  evenFrame : q.evenFrame = p.evenFrame

theorem SamePorts.rfl' (p : Ppu) : SamePorts p p := ⟨rfl, rfl, rfl, rfl, rfl, rfl, rfl, rfl, rfl, rfl⟩

theorem SamePorts.trans {p q r : Ppu} (h : SamePorts p q) (k : SamePorts q r) : SamePorts p r :=
  ⟨k.1.trans h.1, k.2.trans h.2, k.3.trans h.3, k.4.trans h.4, k.5.trans h.5, k.6.trans h.6, k.7.trans h.7,
    k.8.trans h.8, k.9.trans h.9, k.10.trans h.10⟩

theorem SamePosition.rfl' (p : Ppu) : SamePosition p p := ⟨rfl, rfl, rfl⟩

theorem SamePosition.trans {p q r : Ppu} (h : SamePosition p q) (k : SamePosition q r) : SamePosition p r :=
  ⟨k.1.trans h.1, k.2.trans h.2, k.3.trans h.3⟩

/-! ### The parts of a dot -/

/-- The fine-X discard changes the queue only (rule R442). -/
theorem fineXDiscard_frame (p : Ppu) : ∃ q : List Nibble, fineXDiscard p = { p with bgQueue := q } := by
  unfold fineXDiscard
  split
  · exact ⟨_, rfl⟩
  · exact ⟨p.bgQueue, rfl⟩

/-- The compositor changes the queue, the sprite-0 bit and the events only (rule R520). -/
theorem compositorDot_frame (s : State) :
    ∃ (q : List Nibble) (st : Byte) (ev : List Event),
      compositorDot s = { s with ppu := { s.ppu with bgQueue := q, status := st }, events := ev } ∧
        (st = s.ppu.status ∨ st = s.ppu.status ||| 0x40) := by
  unfold compositorDot
  split
  · refine ⟨_, _, _, rfl, ?_⟩
    split
    · exact .inr rfl
    · exact .inl rfl
  · exact ⟨s.ppu.bgQueue, s.ppu.status, s.events, rfl, .inl rfl⟩

/-- The background fetcher changes its latches, the queue and `v` only (rule R443). -/
theorem backgroundDot_frame (p : Ppu) :
    ∃ (nt : Byte) (at' : BitVec 2) (lo hi : Byte) (q : List Nibble) (v : VramAddr),
      backgroundDot p = { p with ntByte := nt, atBits := at', patLo := lo, patHi := hi, bgQueue := q, v := v } := by
  unfold backgroundDot
  split
  · exact ⟨_, _, _, _, _, _, rfl⟩
  · exact ⟨p.ntByte, p.atBits, p.patLo, p.patHi, p.bgQueue, p.v, rfl⟩

/-- A sprite fetch changes the sprite pixel buffer only (rules R491, R495). -/
theorem fetchSlot_frame (k : Nat) (p : Ppu) : ∃ b, fetchSlot k p = { p with spriteBuf := b } := by
  unfold fetchSlot
  split
  · exact ⟨_, rfl⟩
  · exact ⟨p.spriteBuf, rfl⟩

/-- The even evaluation cycle changes secondary OAM, the evaluator and the overflow bit only (rule R478). -/
theorem evalAct_frame (p : Ppu) :
    ∃ (m : Memory) (e : SpriteEval) (st : Byte),
      evalAct p = { p with secOam := m, eval := e, status := st } ∧
        (st = p.status ∨ st = p.status ||| 0x20) := by
  unfold evalAct
  dsimp only
  split
  · split
    · exact ⟨_, _, p.status, rfl, .inl rfl⟩
    · exact ⟨p.secOam, _, p.status, rfl, .inl rfl⟩
  · split
    · exact ⟨_, _, p.status, rfl, .inl rfl⟩
    · exact ⟨_, _, p.status, rfl, .inl rfl⟩
  · split
    · exact ⟨p.secOam, _, _, rfl, .inr rfl⟩
    · exact ⟨p.secOam, _, p.status, rfl, .inl rfl⟩
  · exact ⟨p.secOam, p.eval, p.status, rfl, .inl rfl⟩

/-- The sprite unit changes secondary OAM, the sprite buffer, the evaluator and the overflow bit only. -/
theorem spriteDot_frame (p : Ppu) :
    ∃ (m : Memory) (b : Cells SpritePixel) (e : SpriteEval) (st : Byte),
      spriteDot p = { p with secOam := m, spriteBuf := b, eval := e, status := st } ∧
        (st = p.status ∨ st = p.status ||| 0x20) := by
  unfold spriteDot
  dsimp only
  split
  · exact ⟨p.secOam, p.spriteBuf, p.eval, p.status, rfl, .inl rfl⟩
  · split
    · unfold secOamClear
      split
      · exact ⟨_, p.spriteBuf, p.eval, p.status, rfl, .inl rfl⟩
      · exact ⟨p.secOam, p.spriteBuf, p.eval, p.status, rfl, .inl rfl⟩
    · split
      · unfold evalDot
        dsimp only
        have hq : ∃ e, (if p.cycle = 65 then { p with eval := evalStart p.eval } else p) = { p with eval := e } := by
          split
          · exact ⟨_, rfl⟩
          · exact ⟨p.eval, rfl⟩
        obtain ⟨e0, hq⟩ := hq
        rw [hq]
        split
        · exact ⟨p.secOam, p.spriteBuf, _, p.status, rfl, .inl rfl⟩
        · obtain ⟨m, e, st, h, hs⟩ := evalAct_frame { p with eval := e0 }
          exact ⟨m, p.spriteBuf, e, st, h, hs⟩
      · split
        · exact ⟨p.secOam, _, _, p.status, rfl, .inl rfl⟩
        · split
          · obtain ⟨b, h⟩ := fetchSlot_frame ((p.cycle - 264) / 8) p
            exact ⟨p.secOam, b, p.eval, p.status, h, .inl rfl⟩
          · exact ⟨p.secOam, p.spriteBuf, p.eval, p.status, rfl, .inl rfl⟩

/-- What the timing engine's own actions can do (rules R405, R406, R408 to R411). -/
theorem timingDot_cases (s : State) :
    (∃ (v : VramAddr) (q : List Nibble), timingDot s = s.setPpu { s.ppu with v := v, bgQueue := q }) ∨
    (timingDot s = enterVblank s ∧ s.ppu.scanline = 241 ∧ s.ppu.cycle = 1) ∨
    (timingDot s = preRenderClear s ∧ s.ppu.scanline = 261 ∧ s.ppu.cycle = 1) := by
  have hw : ∀ (p : Ppu) (v : VramAddr), ∃ v', p.whenRendering v = { p with v := v' } := by
    intro p v
    unfold Ppu.whenRendering
    split
    · exact ⟨v, rfl⟩
    · exact ⟨p.v, rfl⟩
  unfold timingDot
  dsimp only
  split
  · obtain ⟨v, hv⟩ := hw s.ppu (verticalIncrement s.ppu.v)
    exact .inl ⟨v, [], by rw [lineEnd, hv]⟩
  · split
    · obtain ⟨v, hv⟩ := hw s.ppu (horizontalReload s.ppu.v s.ppu.t)
      exact .inl ⟨v, s.ppu.bgQueue, by rw [hv]⟩
    · split
      · obtain ⟨v, hv⟩ := hw s.ppu (verticalReload s.ppu.v s.ppu.t)
        exact .inl ⟨v, s.ppu.bgQueue, by rw [hv]⟩
      · split
        · rename_i h
          exact .inr (.inl ⟨rfl, h.1, h.2⟩)
        · split
          · rename_i h
            exact .inr (.inr ⟨rfl, h.1, h.2⟩)
          · exact .inl ⟨s.ppu.v, s.ppu.bgQueue, rfl⟩

/-! ### One dot, and a run of dots -/

/-- A dot's work changes no CPU state but the NMI latch, which it can only clear; it writes nothing that only the ports
write, and it leaves the counters alone (rule R401). -/
theorem dotWork_frame (s : State) :
    ∃ (p : Ppu) (nmi : Bool) (ev : List Event),
      dotWork s = { s with ppu := p, nmiServiced := nmi, events := ev } ∧
        SamePorts s.ppu p ∧ SamePosition s.ppu p ∧ (nmi = true → s.nmiServiced = true) := by
  unfold dotWork
  dsimp only
  obtain ⟨q1, h1⟩ := fineXDiscard_frame s.ppu
  rw [h1]
  obtain ⟨q2, st2, ev2, h2, -⟩ := compositorDot_frame (s.setPpu { s.ppu with bgQueue := q1 })
  rw [h2]
  dsimp only [State.setPpu]
  obtain ⟨nt, ab, lo, hi, q3, v3, h3⟩ := backgroundDot_frame { s.ppu with bgQueue := q2, status := st2 }
  rw [h3]
  obtain ⟨m, b, e, st4, h4, -⟩ := spriteDot_frame
    { s.ppu with bgQueue := q3, status := st2, ntByte := nt, atBits := ab, patLo := lo, patHi := hi, v := v3 }
  rw [h4]
  generalize hp : ({ s.ppu with
    bgQueue := q3, status := st4, ntByte := nt, atBits := ab, patLo := lo, patHi := hi,
    v := v3, secOam := m, spriteBuf := b, eval := e } : Ppu) = p4
  have hports : SamePorts s.ppu p4 := by subst hp; exact ⟨rfl, rfl, rfl, rfl, rfl, rfl, rfl, rfl, rfl, rfl⟩
  have hpos : SamePosition s.ppu p4 := by subst hp; exact ⟨rfl, rfl, rfl⟩
  rcases timingDot_cases { s with ppu := p4, events := ev2 } with ⟨v, q, h⟩ | ⟨h, -, -⟩ | ⟨h, -, -⟩
  · exact ⟨_, s.nmiServiced, ev2, h, ⟨hports.1, hports.2, hports.3, hports.4, hports.5, hports.6, hports.7, hports.8,
      hports.9, hports.10⟩, ⟨hpos.1, hpos.2, hpos.3⟩, id⟩
  · exact ⟨_, s.nmiServiced, _, h, ⟨hports.1, hports.2, hports.3, hports.4, hports.5, hports.6, hports.7, hports.8,
      hports.9, hports.10⟩, ⟨hpos.1, hpos.2, hpos.3⟩, id⟩
  · exact ⟨_, false, ev2, h, ⟨hports.1, hports.2, hports.3, hports.4, hports.5, hports.6, hports.7, hports.8,
      hports.9, hports.10⟩, ⟨hpos.1, hpos.2, hpos.3⟩, by simp⟩

/-- The advance of the counters changes the counters only (rules R401, R412). -/
theorem advanceDot_frame (p : Ppu) :
    ∃ (c sl : Nat) (ef : Bool), advanceDot p = { p with cycle := c, scanline := sl, evenFrame := ef } := by
  have h1 : ∃ (c sl : Nat) (ef : Bool),
      (if p.cycle + 1 = 341 then
        if p.scanline + 1 = 262 then { p with cycle := 0, scanline := 0, evenFrame := !p.evenFrame }
        else { p with cycle := 0, scanline := p.scanline + 1 }
      else { p with cycle := p.cycle + 1 }) = { p with cycle := c, scanline := sl, evenFrame := ef } := by
    split
    · split
      · exact ⟨_, _, _, rfl⟩
      · exact ⟨_, _, p.evenFrame, rfl⟩
    · exact ⟨_, p.scanline, p.evenFrame, rfl⟩
  obtain ⟨c, sl, ef, h⟩ := h1
  unfold advanceDot
  rw [h]
  dsimp only
  split
  · exact ⟨_, _, _, rfl⟩
  · exact ⟨c, sl, ef, rfl⟩

/-- A dot changes the picture unit, the NMI latch (which it can only clear) and the events, and nothing that only the
ports write. -/
theorem ppuTick_frame (s : State) :
    ∃ (p : Ppu) (nmi : Bool) (ev : List Event),
      ppuTick s = { s with ppu := p, nmiServiced := nmi, events := ev } ∧
        SamePorts s.ppu p ∧ (nmi = true → s.nmiServiced = true) := by
  obtain ⟨p, nmi, ev, h, hp, -, hn⟩ := dotWork_frame s
  obtain ⟨c, sl, ef, ha⟩ := advanceDot_frame p
  refine ⟨{ p with cycle := c, scanline := sl, evenFrame := ef }, nmi, ev, ?_,
    ⟨hp.1, hp.2, hp.3, hp.4, hp.5, hp.6, hp.7, hp.8, hp.9, hp.10⟩, hn⟩
  unfold ppuTick
  rw [h]
  simp only [State.setPpu, ha]

/-- The same of a run of dots. -/
theorem runDots_frame (n : Nat) :
    ∀ s : State, ∃ (p : Ppu) (nmi : Bool) (ev : List Event),
      runDots n s = { s with ppu := p, nmiServiced := nmi, events := ev } ∧
        SamePorts s.ppu p ∧ (nmi = true → s.nmiServiced = true) := by
  induction n with
  | zero => intro s; exact ⟨s.ppu, s.nmiServiced, s.events, rfl, SamePorts.rfl' _, id⟩
  | succ n ih =>
    intro s
    obtain ⟨p, nmi, ev, h, hp, hn⟩ := ppuTick_frame s
    obtain ⟨p', nmi', ev', h', hp', hn'⟩ := ih (ppuTick s)
    rw [h] at h' hp' hn'
    exact ⟨p', nmi', ev', by rw [runDots, h, h'], hp.trans hp', fun e => hn (hn' e)⟩

/-- A run of `m + n` dots is a run of `m` and then one of `n`. -/
theorem runDots_add (m n : Nat) : ∀ s : State, runDots (m + n) s = runDots n (runDots m s) := by
  induction m with
  | zero => intro s; simp [runDots]
  | succ m ih =>
    intro s
    rw [Nat.succ_add]
    simp only [runDots]
    exact ih _

end Sys2Proof.Machine
end

