-- ==== Sys2Proof/Laws/Step.lean ====
section
/-! SUPPORT. What any bus access, any instruction and any step may change. -/

namespace Sys2Proof.Machine

/-- The part of the picture unit that only its dots write is the same in `q` as in `p`. -/
structure SameDots (p q : Ppu) : Prop where
  cycle : q.cycle = p.cycle
  scanline : q.scanline = p.scanline
  evenFrame : q.evenFrame = p.evenFrame
  mirroring : q.mirroring = p.mirroring
  secOam : q.secOam = p.secOam
  spriteBuf : q.spriteBuf = p.spriteBuf
  eval : q.eval = p.eval
  bgQueue : q.bgQueue = p.bgQueue
  ntByte : q.ntByte = p.ntByte
  atBits : q.atBits = p.atBits
  patLo : q.patLo = p.patLo
  patHi : q.patHi = p.patHi

theorem SameDots.rfl' (p : Ppu) : SameDots p p :=
  ⟨rfl, rfl, rfl, rfl, rfl, rfl, rfl, rfl, rfl, rfl, rfl, rfl⟩

theorem SameDots.trans {p q r : Ppu} (h : SameDots p q) (k : SameDots q r) : SameDots p r :=
  ⟨k.1.trans h.1, k.2.trans h.2, k.3.trans h.3, k.4.trans h.4, k.5.trans h.5, k.6.trans h.6, k.7.trans h.7,
    k.8.trans h.8, k.9.trans h.9, k.10.trans h.10, k.11.trans h.11, k.12.trans h.12⟩

/-- What an instruction never changes: the total cycle count, the parameters, the live break flag and the part of the
picture unit that only its dots write. -/
structure ExecFrame (s t : State) : Prop where
  totalCycle : t.totalCycle = s.totalCycle
  params : t.params = s.params
  breakFlag : t.flags.b = s.flags.b
  dots : SameDots s.ppu t.ppu

theorem ExecFrame.rfl' (s : State) : ExecFrame s s := ⟨rfl, rfl, rfl, SameDots.rfl' _⟩

theorem ExecFrame.trans {s t u : State} (h : ExecFrame s t) (k : ExecFrame t u) : ExecFrame s u :=
  ⟨k.1.trans h.1, k.2.trans h.2, k.3.trans h.3, h.4.trans k.4⟩

/-! ### Bus accesses -/

/-- A write to a PPU port never changes what only the dots write. -/
theorem ppuPortWrite_sameDots (port : BitVec 3) (v : Byte) (p : Ppu) : SameDots p (ppuPortWrite port v p) := by
  unfold ppuPortWrite
  split
  · (constructor <;> rfl)
  · split
    · (constructor <;> rfl)
    · split
      · (constructor <;> rfl)
      · split
        · (constructor <;> rfl)
        · split
          · (constructor <;> rfl)
          · split
            · unfold scrollWrite; split <;> (constructor <;> rfl)
            · split
              · unfold addrWrite; split <;> (constructor <;> rfl)
              · (constructor <;> rfl)

/-- A read never changes what only the dots write. -/
theorem memRead_execFrame (a : Word) (s : State) : ExecFrame s (memRead a s).2 := by
  unfold memRead
  split
  · exact ⟨rfl, rfl, rfl, by constructor <;> rfl⟩
  · unfold ppuPortRead
    split
    · exact ⟨rfl, rfl, rfl, by constructor <;> rfl⟩
    · split
      · exact ⟨rfl, rfl, rfl, by constructor <;> rfl⟩
      · split
        · unfold dataRead
          dsimp only
          split <;> exact ⟨rfl, rfl, rfl, by constructor <;> rfl⟩
        · exact ⟨rfl, rfl, rfl, by constructor <;> rfl⟩
  · exact ⟨rfl, rfl, rfl, by constructor <;> rfl⟩
  · exact ⟨rfl, rfl, rfl, by constructor <;> rfl⟩
  · exact ⟨rfl, rfl, rfl, by constructor <;> rfl⟩
  · exact ⟨rfl, rfl, rfl, by constructor <;> rfl⟩

/-- A completed write never changes what only the dots write. -/
theorem memWrite_execFrame {a : Word} {v : Byte} {s t : State} (h : memWrite a v s = .next t) : ExecFrame s t := by
  unfold memWrite at h
  split at h
  · cases h; exact ⟨rfl, rfl, rfl, by constructor <;> rfl⟩
  · cases h; exact ⟨rfl, rfl, rfl, ppuPortWrite_sameDots _ _ _⟩
  · unfold oamDma at h
    split at h
    · cases h
    · cases h; exact ⟨rfl, rfl, rfl, by constructor <;> rfl⟩
  · cases h; exact ⟨rfl, rfl, rfl, by constructor <;> rfl⟩
  · cases h; exact ⟨rfl, rfl, rfl, by constructor <;> rfl⟩
  · unfold flatWrite at h
    split at h
    · cases h; exact ⟨rfl, rfl, rfl, by constructor <;> rfl⟩
    · cases h; exact ⟨rfl, rfl, rfl, by constructor <;> rfl⟩

/-! ### Instructions -/

theorem loadOperand_execFrame (o : ReadOperand) (s : State) : ExecFrame s (loadOperand o s).2 := by
  cases o with
  | imm b => exact ExecFrame.rfl' s
  | mem m => exact memRead_execFrame _ s

theorem execRead_execFrame {o : ReadOperand} {effect : Byte → State → State} {s t : State}
    (h : execRead o effect s = .next t) (he : ∀ v u, ExecFrame u (effect v u)) : ExecFrame s t := by
  cases h
  have h1 := (loadOperand_execFrame o s).trans (he (loadOperand o s).1 _)
  exact ⟨h1.1, h1.2, h1.3, h1.4⟩

theorem execStore_execFrame {m : MemOperand} {v : Byte} {s t : State} (h : execStore m v s = .next t) :
    ExecFrame s t := by
  obtain ⟨u, hu, h⟩ := andThen_next h
  cases h
  have h1 := memWrite_execFrame hu
  exact ⟨h1.1, h1.2, h1.3, h1.4⟩

theorem execRmw_execFrame {m : MemOperand} {op : ByteOp} {s t : State}
    (h : execRmw m op s = .next t) (ho : ∀ v f, (op v f).2.b = f.b) : ExecFrame s t := by
  obtain ⟨u, hu, h⟩ := andThen_next h
  cases h
  have h1 := memRead_execFrame (effAddr m s).ea s
  have h2 := memWrite_execFrame hu
  exact ⟨h2.1.trans h1.1, h2.2.trans h1.2, (h2.3.trans (ho _ _)).trans h1.3, h1.4.trans h2.4⟩

theorem execShift_execFrame {o : ShiftOperand} {op : ByteOp} {s t : State}
    (h : execShift o op s = .next t) (ho : ∀ v f, (op v f).2.b = f.b) : ExecFrame s t := by
  cases o with
  | acc => cases h; exact ⟨rfl, rfl, ho _ _, SameDots.rfl' _⟩
  | mem m => exact execRmw_execFrame h ho

theorem execBranch_execFrame {cond : Bool} {rel : Byte} {s t : State} (h : execBranch cond rel s = .next t) :
    ExecFrame s t := by
  unfold execBranch at h
  dsimp only at h
  split at h <;> · cases h; exact ⟨rfl, rfl, rfl, by constructor <;> rfl⟩

/-- What no instruction changes (rules R41, R47, R8, R10). -/
theorem exec_execFrame {i : Instr} {s t : State} (h : exec i s = .next t) : ExecFrame s t := by
  cases i with
  | lda o => unfold exec execLda at h; exact execRead_execFrame h fun _ _ => ⟨rfl, rfl, rfl, by constructor <;> rfl⟩
  | ldx o => unfold exec execLdx at h; exact execRead_execFrame h fun _ _ => ⟨rfl, rfl, rfl, by constructor <;> rfl⟩
  | ldy o => unfold exec execLdy at h; exact execRead_execFrame h fun _ _ => ⟨rfl, rfl, rfl, by constructor <;> rfl⟩
  | adc o => unfold exec execAdc at h; exact execRead_execFrame h fun _ _ => ⟨rfl, rfl, rfl, by constructor <;> rfl⟩
  | sbc o => unfold exec execSbc at h; exact execRead_execFrame h fun _ _ => ⟨rfl, rfl, rfl, by constructor <;> rfl⟩
  | and o => unfold exec execAnd at h; exact execRead_execFrame h fun _ _ => ⟨rfl, rfl, rfl, by constructor <;> rfl⟩
  | ora o => unfold exec execOra at h; exact execRead_execFrame h fun _ _ => ⟨rfl, rfl, rfl, by constructor <;> rfl⟩
  | eor o => unfold exec execEor at h; exact execRead_execFrame h fun _ _ => ⟨rfl, rfl, rfl, by constructor <;> rfl⟩
  | cmp o => unfold exec execCmp at h; exact execRead_execFrame h fun _ _ => ⟨rfl, rfl, rfl, by constructor <;> rfl⟩
  | cpx o => unfold exec execCpx at h; exact execRead_execFrame h fun _ _ => ⟨rfl, rfl, rfl, by constructor <;> rfl⟩
  | cpy o => unfold exec execCpy at h; exact execRead_execFrame h fun _ _ => ⟨rfl, rfl, rfl, by constructor <;> rfl⟩
  | bit m => unfold exec execBit at h; exact execRead_execFrame h fun _ _ => ⟨rfl, rfl, rfl, by constructor <;> rfl⟩
  | sta m => unfold exec execSta at h; exact execStore_execFrame h
  | stx m => unfold exec execStx at h; exact execStore_execFrame h
  | sty m => unfold exec execSty at h; exact execStore_execFrame h
  | asl o => unfold exec execAsl at h; exact execShift_execFrame h fun _ _ => rfl
  | lsr o => unfold exec execLsr at h; exact execShift_execFrame h fun _ _ => rfl
  | rol o => unfold exec execRol at h; exact execShift_execFrame h fun _ _ => rfl
  | ror o => unfold exec execRor at h; exact execShift_execFrame h fun _ _ => rfl
  | inc m => unfold exec execInc at h; exact execRmw_execFrame h fun _ _ => rfl
  | dec m => unfold exec execDec at h; exact execRmw_execFrame h fun _ _ => rfl
  | bcc r => unfold exec execBcc at h; exact execBranch_execFrame h
  | bcs r => unfold exec execBcs at h; exact execBranch_execFrame h
  | beq r => unfold exec execBeq at h; exact execBranch_execFrame h
  | bne r => unfold exec execBne at h; exact execBranch_execFrame h
  | bmi r => unfold exec execBmi at h; exact execBranch_execFrame h
  | bpl r => unfold exec execBpl at h; exact execBranch_execFrame h
  | bvc r => unfold exec execBvc at h; exact execBranch_execFrame h
  | bvs r => unfold exec execBvs at h; exact execBranch_execFrame h
  | jmp o =>
    cases o with
    | abs w => cases h; exact ⟨rfl, rfl, rfl, by constructor <;> rfl⟩
    | ind w =>
      cases h
      have h1 := (memRead_execFrame w s).trans
        (memRead_execFrame (indirectHigh w s.params.jmpIndirectPageWrap) (memRead w s).2)
      exact ⟨h1.1, h1.2, h1.3, h1.4⟩
  | tax | tay | txa | tya | tsx | txs => cases h; exact ⟨rfl, rfl, rfl, by constructor <;> rfl⟩
  | inx | iny | dex | dey => cases h; exact ⟨rfl, rfl, rfl, by constructor <;> rfl⟩
  | jsr w => cases h; exact ⟨rfl, rfl, rfl, by constructor <;> rfl⟩
  | rts => cases h; exact ⟨rfl, rfl, rfl, by constructor <;> rfl⟩
  | pha | php | pla | plp => cases h; exact ⟨rfl, rfl, rfl, by constructor <;> rfl⟩
  | clc | sec | cli | sei | cld | sed | clv | nop => cases h; exact ⟨rfl, rfl, rfl, by constructor <;> rfl⟩
  | brk => cases h; exact ⟨rfl, rfl, rfl, by constructor <;> rfl⟩
  | rti => cases h; exact ⟨rfl, rfl, rfl, by constructor <;> rfl⟩
  | unknown op => cases h; exact ⟨rfl, rfl, rfl, by constructor <;> rfl⟩

/-! ### The fetch and the step -/

/-- The fetch is refused only for a port (rule R106). -/
theorem fetchInstr_error {s : State} {r : Refusal} (h : fetchInstr s = .error r) : r = .fetchFromPort := by
  unfold fetchInstr at h
  split at h
  · cases h; rfl
  · split at h
    · cases h
    · split at h
      · cases h; rfl
      · cases h
    · split at h
      · cases h; rfl
      · cases h

/-- A step with an NMI due is the NMI entry (rules R556, R610). -/
theorem step_nmi (s : State) (hn : nmiCondition (beginStep s) = true) :
    step s = .next (finishStep (nmiEntry (beginStep s))) := by
  simp only [step, hn, if_true]

/-- A step whose fetch is refused is refused. -/
theorem step_fetch_error (s : State) (r : Refusal) (hn : nmiCondition (beginStep s) = false)
    (hi : fetchInstr (beginStep s) = .error r) : step s = .refused r := by
  simp only [step, hn, hi, Bool.false_eq_true, if_false]

/-- A step with no NMI due runs the fetched instruction and then its dots (rule R610). -/
theorem step_fetch_ok (s : State) (i : Instr) (hn : nmiCondition (beginStep s) = false)
    (hi : fetchInstr (beginStep s) = .ok i) :
    step s = andThen (exec i (beginStep s)) fun t => .next (finishStep t) := by
  simp only [step, hn, hi, Bool.false_eq_true, if_false]

/-- What a completed step was: an NMI entry or one instruction, and then the end of the step. -/
theorem step_cases {s t : State} (h : step s = .next t) :
    ∃ u : State, t = finishStep u ∧
      ((nmiCondition (beginStep s) = true ∧ u = nmiEntry (beginStep s)) ∨
       (nmiCondition (beginStep s) = false ∧
          ∃ i, fetchInstr (beginStep s) = .ok i ∧ exec i (beginStep s) = .next u)) := by
  cases hn : nmiCondition (beginStep s) with
  | true =>
    rw [step_nmi s hn] at h
    injection h with h
    exact ⟨_, h.symm, .inl ⟨rfl, rfl⟩⟩
  | false =>
    cases hi : fetchInstr (beginStep s) with
    | error r => rw [step_fetch_error s r hn hi] at h; cases h
    | ok i =>
      rw [step_fetch_ok s i hn hi] at h
      obtain ⟨u, hu, hk⟩ := andThen_next h
      injection hk with hk
      exact ⟨u, hk.symm, .inr ⟨rfl, i, rfl, hu⟩⟩

/-- The CPU part of a step never changes the total cycle count, the parameters, the live break flag or what only the
dots write. -/
theorem step_cpu_execFrame {s u : State}
    (h : (nmiCondition (beginStep s) = true ∧ u = nmiEntry (beginStep s)) ∨
      (nmiCondition (beginStep s) = false ∧
        ∃ i, fetchInstr (beginStep s) = .ok i ∧ exec i (beginStep s) = .next u)) : ExecFrame s u := by
  rcases h with ⟨-, rfl⟩ | ⟨-, i, -, h⟩
  · exact ⟨rfl, rfl, rfl, by constructor <;> rfl⟩
  · have h1 := exec_execFrame h
    exact ⟨h1.1, h1.2, h1.3, h1.4⟩

end Sys2Proof.Machine
end

