-- ==== Sys2Proof/Tests/Slice0.lean ====
section
/-! SUPPORT. The model's own tests and the witnesses of its statements. Expected values come from the spec: its vectors
(spec/95_test_vectors.md) and the examples of its rules. -/

namespace Sys2Proof.Tests

set_option Elab.async false

open Sys2Proof.Machine

/-! ### Helpers -/

/-- The start state of spec/95: reset with `PC` = 0xC000. -/
def cpu : State := State.reset.setPc 0xC000

/-- Bytes written into the CPU array from a cell on. -/
def pokes (k : Nat) : List Byte → State → State
  | [], s => s
  | b :: rest, s => pokes (k + 1) rest (s.setCpuMem (s.cpuMem.write k b))

/-- The six flags of a status byte, the live break flag 0. -/
def withP (p : Byte) (s : State) : State :=
  s.setFlags (loadStatus p { s.flags with b := false })

/-- The dot counters moved. -/
def at' (scanline cycle : Nat) (s : State) : State :=
  s.setPpu { s.ppu with scanline := scanline, cycle := cycle }

/-- A result is a next state with a property. -/
def ends (r : Result) (p : State → Bool) : Bool :=
  match r with
  | .next t => p t
  | .fault _ => false
  | .refused _ => false

/-- One step with the bytes of an instruction at `PC` (a RAM or flat address). -/
def runs (bytes : List Byte) (s : State) (p : State → Bool) : Bool :=
  ends (step (pokes s.pc.toNat bytes s)) p

/-- The status byte of a state. -/
def pOf (s : State) : Byte := statusByte s.flags

theorem ends_next {r : Result} (h : ends r (fun _ => true) = true) : ∃ t, r = .next t := by
  cases r with
  | next t => exact ⟨t, rfl⟩
  | fault e => cases h
  | refused e => cases h

/-! ### Well-formedness: every check refuses an ill-formed term -/

theorem test_wf_group : (Instr.adc (.mem (.zpy 0))).wf = false ∧ (Instr.lda (.mem (.zpy 0))).wf = false := by decide
theorem test_wf_sta : (Instr.sta (.zpy 0)).wf = false := by decide
theorem test_wf_ldx : (Instr.ldx (.mem (.zpx 0))).wf = false ∧ (Instr.ldx (.mem (.abx 0))).wf = false := by decide
theorem test_wf_ldy : (Instr.ldy (.mem (.zpy 0))).wf = false ∧ (Instr.ldy (.mem (.aby 0))).wf = false := by decide
theorem test_wf_stx : (Instr.stx (.zpx 0)).wf = false ∧ (Instr.stx (.aby 0)).wf = false := by decide
theorem test_wf_sty : (Instr.sty (.zpy 0)).wf = false ∧ (Instr.sty (.abx 0)).wf = false := by decide
theorem test_wf_plain : (Instr.cpx (.mem (.zpx 0))).wf = false ∧ (Instr.bit (.abx 0)).wf = false := by decide
theorem test_wf_shift : (Instr.ror (.mem (.izy 0))).wf = false ∧ (Instr.asl (.mem (.aby 0))).wf = false := by decide
theorem test_wf_incdec : (Instr.inc (.izx 0)).wf = false ∧ (Instr.dec (.zpy 0)).wf = false := by decide
theorem test_wf_unknown : (Instr.unknown 0xEA).wf = false ∧ (Instr.unknown 0x02).wf = true := by decide

/-! ### Decoding: words written out from the rules' encodings, one at least for every constructor -/

/-- From rules R201 to R206. -/
theorem test_decode_loads :
    decode [0xA9, 0x05] = .ok (.lda (.imm 0x05), []) ∧
    decode [0xB1, 0xFF] = .ok (.lda (.mem (.izy 0xFF)), []) ∧
    decode [0xB6, 0xF0] = .ok (.ldx (.mem (.zpy 0xF0)), []) ∧
    decode [0xBC, 0x34, 0x12] = .ok (.ldy (.mem (.abx 0x1234)), []) ∧
    decode [0x8D, 0x00, 0x02] = .ok (.sta (.abs 0x0200), []) ∧
    decode [0x81, 0x07] = .ok (.sta (.izx 0x07), []) ∧
    decode [0x96, 0xF0] = .ok (.stx (.zpy 0xF0), []) ∧
    decode [0x94, 0x10] = .ok (.sty (.zpx 0x10), []) :=
  ⟨rfl, rfl, rfl, rfl, rfl, rfl, rfl, rfl⟩

/-- From rules R207 to R212. -/
theorem test_decode_transfers :
    decode [0xAA] = .ok (.tax, []) ∧
    decode [0xA8] = .ok (.tay, []) ∧
    decode [0x8A] = .ok (.txa, []) ∧
    decode [0x98] = .ok (.tya, []) ∧
    decode [0xBA] = .ok (.tsx, []) ∧
    decode [0x9A] = .ok (.txs, []) :=
  ⟨rfl, rfl, rfl, rfl, rfl, rfl⟩

/-- From rules R230 to R239. -/
theorem test_decode_arithmetic :
    decode [0x79, 0xF0, 0x12] = .ok (.adc (.mem (.aby 0x12F0)), []) ∧
    decode [0xE9, 0xB0] = .ok (.sbc (.imm 0xB0), []) ∧
    decode [0x21, 0x80] = .ok (.and (.mem (.izx 0x80)), []) ∧
    decode [0x1D, 0x01, 0x80] = .ok (.ora (.mem (.abx 0x8001)), []) ∧
    decode [0x55, 0x7F] = .ok (.eor (.mem (.zpx 0x7F)), []) ∧
    decode [0xCD, 0xFE, 0xCA] = .ok (.cmp (.mem (.abs 0xCAFE)), []) ∧
    decode [0xE0, 0xFF] = .ok (.cpx (.imm 0xFF), []) ∧
    decode [0xC4, 0x10] = .ok (.cpy (.mem (.zp 0x10)), []) ∧
    decode [0x2C, 0x02, 0x20] = .ok (.bit (.abs 0x2002), []) :=
  ⟨rfl, rfl, rfl, rfl, rfl, rfl, rfl, rfl, rfl⟩

/-- From rules R261 to R270. -/
theorem test_decode_shifts :
    decode [0x0A] = .ok (.asl .acc, []) ∧
    decode [0x1E, 0xF0, 0x02] = .ok (.asl (.mem (.abx 0x02F0)), []) ∧
    decode [0x46, 0x81] = .ok (.lsr (.mem (.zp 0x81)), []) ∧
    decode [0x2A] = .ok (.rol .acc, []) ∧
    decode [0x6E, 0x01, 0x03] = .ok (.ror (.mem (.abs 0x0301)), []) ∧
    decode [0xF6, 0x12] = .ok (.inc (.zpx 0x12), []) ∧
    decode [0xC6, 0x10] = .ok (.dec (.zp 0x10), []) ∧
    decode [0xE8] = .ok (.inx, []) ∧
    decode [0xC8] = .ok (.iny, []) ∧
    decode [0xCA] = .ok (.dex, []) ∧
    decode [0x88] = .ok (.dey, []) :=
  ⟨rfl, rfl, rfl, rfl, rfl, rfl, rfl, rfl, rfl, rfl, rfl⟩

/-- From rules R291 to R301. -/
theorem test_decode_control :
    decode [0x90, 0xFC] = .ok (.bcc 0xFC, []) ∧
    decode [0xB0, 0x01] = .ok (.bcs 0x01, []) ∧
    decode [0xF0, 0x80] = .ok (.beq 0x80, []) ∧
    decode [0xD0, 0xF9] = .ok (.bne 0xF9, []) ∧
    decode [0x30, 0xFD] = .ok (.bmi 0xFD, []) ∧
    decode [0x10, 0x00] = .ok (.bpl 0x00, []) ∧
    decode [0x50, 0x7F] = .ok (.bvc 0x7F, []) ∧
    decode [0x70, 0x7F] = .ok (.bvs 0x7F, []) ∧
    decode [0x4C, 0x34, 0x12] = .ok (.jmp (.abs 0x1234), []) ∧
    decode [0x6C, 0xFF, 0x02] = .ok (.jmp (.ind 0x02FF), []) ∧
    decode [0x20, 0x10, 0xC0] = .ok (.jsr 0xC010, []) ∧
    decode [0x60] = .ok (.rts, []) :=
  ⟨rfl, rfl, rfl, rfl, rfl, rfl, rfl, rfl, rfl, rfl, rfl, rfl⟩

/-- From rules R321 to R335. -/
theorem test_decode_system :
    decode [0x48] = .ok (.pha, []) ∧
    decode [0x08] = .ok (.php, []) ∧
    decode [0x68] = .ok (.pla, []) ∧
    decode [0x28] = .ok (.plp, []) ∧
    decode [0x18] = .ok (.clc, []) ∧
    decode [0x38] = .ok (.sec, []) ∧
    decode [0x58] = .ok (.cli, []) ∧
    decode [0x78] = .ok (.sei, []) ∧
    decode [0xD8] = .ok (.cld, []) ∧
    decode [0xF8] = .ok (.sed, []) ∧
    decode [0xB8] = .ok (.clv, []) ∧
    decode [0xEA] = .ok (.nop, []) ∧
    decode [0x00] = .ok (.brk, []) ∧
    decode [0x40] = .ok (.rti, []) ∧
    decode [0x02] = .ok (.unknown 0x02, []) ∧
    decode [0xFF] = .ok (.unknown 0xFF, []) :=
  ⟨rfl, rfl, rfl, rfl, rfl, rfl, rfl, rfl, rfl, rfl, rfl, rfl, rfl, rfl, rfl, rfl⟩

/-- A string that ends before its operand is no instruction; the error names the opcode byte. -/
theorem test_decode_truncated :
    decode [] = .error .noOpcode ∧ decode [0xA9] = .error (.truncated 0xA9) ∧
    decode [0x4C, 0x00] = .error (.truncated 0x4C) := ⟨rfl, rfl, rfl⟩

/-- spec/opcode_table.json, rule R171: opcode, length, base cycles of the 151 documented opcodes. -/
def tableRows : List (Nat × Nat × Nat) :=
  [(0x00, 1, 7), (0x01, 2, 6), (0x05, 2, 3), (0x06, 2, 5), (0x08, 1, 3), (0x09, 2, 2), (0x0A, 1, 2), (0x0D, 3, 4), (0x0E, 3, 6), (0x10, 2, 2), (0x11, 2, 5), (0x15, 2, 4)] ++
  [(0x16, 2, 6), (0x18, 1, 2), (0x19, 3, 4), (0x1D, 3, 4), (0x1E, 3, 7), (0x20, 3, 6), (0x21, 2, 6), (0x24, 2, 3), (0x25, 2, 3), (0x26, 2, 5), (0x28, 1, 4), (0x29, 2, 2)] ++
  [(0x2A, 1, 2), (0x2C, 3, 4), (0x2D, 3, 4), (0x2E, 3, 6), (0x30, 2, 2), (0x31, 2, 5), (0x35, 2, 4), (0x36, 2, 6), (0x38, 1, 2), (0x39, 3, 4), (0x3D, 3, 4), (0x3E, 3, 7)] ++
  [(0x40, 1, 6), (0x41, 2, 6), (0x45, 2, 3), (0x46, 2, 5), (0x48, 1, 3), (0x49, 2, 2), (0x4A, 1, 2), (0x4C, 3, 3), (0x4D, 3, 4), (0x4E, 3, 6), (0x50, 2, 2), (0x51, 2, 5)] ++
  [(0x55, 2, 4), (0x56, 2, 6), (0x58, 1, 2), (0x59, 3, 4), (0x5D, 3, 4), (0x5E, 3, 7), (0x60, 1, 6), (0x61, 2, 6), (0x65, 2, 3), (0x66, 2, 5), (0x68, 1, 4), (0x69, 2, 2)] ++
  [(0x6A, 1, 2), (0x6C, 3, 5), (0x6D, 3, 4), (0x6E, 3, 6), (0x70, 2, 2), (0x71, 2, 5), (0x75, 2, 4), (0x76, 2, 6), (0x78, 1, 2), (0x79, 3, 4), (0x7D, 3, 4), (0x7E, 3, 7)] ++
  [(0x81, 2, 6), (0x84, 2, 3), (0x85, 2, 3), (0x86, 2, 3), (0x88, 1, 2), (0x8A, 1, 2), (0x8C, 3, 4), (0x8D, 3, 4), (0x8E, 3, 4), (0x90, 2, 2), (0x91, 2, 6), (0x94, 2, 4)] ++
  [(0x95, 2, 4), (0x96, 2, 4), (0x98, 1, 2), (0x99, 3, 5), (0x9A, 1, 2), (0x9D, 3, 5), (0xA0, 2, 2), (0xA1, 2, 6), (0xA2, 2, 2), (0xA4, 2, 3), (0xA5, 2, 3), (0xA6, 2, 3)] ++
  [(0xA8, 1, 2), (0xA9, 2, 2), (0xAA, 1, 2), (0xAC, 3, 4), (0xAD, 3, 4), (0xAE, 3, 4), (0xB0, 2, 2), (0xB1, 2, 5), (0xB4, 2, 4), (0xB5, 2, 4), (0xB6, 2, 4), (0xB8, 1, 2)] ++
  [(0xB9, 3, 4), (0xBA, 1, 2), (0xBC, 3, 4), (0xBD, 3, 4), (0xBE, 3, 4), (0xC0, 2, 2), (0xC1, 2, 6), (0xC4, 2, 3), (0xC5, 2, 3), (0xC6, 2, 5), (0xC8, 1, 2), (0xC9, 2, 2)] ++
  [(0xCA, 1, 2), (0xCC, 3, 4), (0xCD, 3, 4), (0xCE, 3, 6), (0xD0, 2, 2), (0xD1, 2, 5), (0xD5, 2, 4), (0xD6, 2, 6), (0xD8, 1, 2), (0xD9, 3, 4), (0xDD, 3, 4), (0xDE, 3, 7)] ++
  [(0xE0, 2, 2), (0xE1, 2, 6), (0xE4, 2, 3), (0xE5, 2, 3), (0xE6, 2, 5), (0xE8, 1, 2), (0xE9, 2, 2), (0xEA, 1, 2), (0xEC, 3, 4), (0xED, 3, 4), (0xEE, 3, 6), (0xF0, 2, 2)] ++
  [(0xF1, 2, 5), (0xF5, 2, 4), (0xF6, 2, 6), (0xF8, 1, 2), (0xF9, 3, 4), (0xFD, 3, 4), (0xFE, 3, 7)]

/-- The length of the decoded row, and its cycles on operands that cross no page and branches that are not taken. -/
def rowOk (row : Nat × Nat × Nat) : Bool :=
  let word := row.1 + 0x10300
  let s (f : Bool) := cpu.setFlags { c := f, z := f, i := f, d := f, b := f, v := f, n := f }
  match decodeTableWord 24 word with
  | some i =>
    (encode i).length == row.2.1 && ends (exec i (s false)) (fun t => row.2.2 ≤ t.cycles) &&
      ends (exec i (s true)) (fun t => row.2.2 ≤ t.cycles) &&
      (ends (exec i (s false)) (fun t => t.cycles == row.2.2) || ends (exec i (s true)) (fun t => t.cycles == row.2.2))
  | none => false

theorem test_table : tableRows.all rowOk = true ∧ tableRows.length = 151 := by decide +kernel

/-! ### Instructions, one step each: spec/95 sections 2.1 to 2.5 -/

/-- spec/95 2.1 row 1. -/
theorem test_lda_imm_zero : runs [0xA9, 0x00] ({ cpu with a := 0x55 })
    (fun t => t.a == 0x00 && pOf t == 0x26 && t.pc == 0xC002 && t.cycles == 2) = true := by decide +kernel

/-- spec/95 2.1 row 8. -/
theorem test_lda_izy_cross : runs [0xB1, 0xFF] (pokes 0x308 [0xCD] (pokes 0x100 [0x07] (pokes 0x00 [0x02] (pokes 0xFF [0xF8] ({ cpu with y := 0x10 })))))
    (fun t => t.a == 0xCD && pOf t == 0xA4 && t.cycles == 6) = true := by decide +kernel

/-- spec/95 2.1 row 7. -/
theorem test_lda_izx_wrap : runs [0xA1, 0xFE] (pokes 0x234 [0xAB] (pokes 0x100 [0x07] (pokes 0x00 [0x02] (pokes 0xFF [0x34] ({ cpu with x := 0x01 })))))
    (fun t => t.a == 0xAB && pOf t == 0xA4 && t.cycles == 6) = true := by decide +kernel

/-- spec/95 2.1 row 3. -/
theorem test_ldx_zpy_wrap : runs [0xB6, 0xF0] (pokes 0x110 [0x11] (pokes 0x10 [0x7E] ({ cpu with y := 0x20 })))
    (fun t => t.x == 0x7E && pOf t == 0x24 && t.cycles == 4) = true := by decide +kernel

/-- spec/95 2.1 row 13. -/
theorem test_ldy_zpx : runs [0xB4, 0xF0] (pokes 0x10 [0xFF] ({ cpu with x := 0x20 }))
    (fun t => t.y == 0xFF && pOf t == 0xA4 && t.cycles == 4) = true := by decide +kernel

/-- spec/95 2.1 row 6. -/
theorem test_sta_abx : runs [0x9D, 0xF0, 0x12] ({ cpu with x := 0x20, a := 0x42 })
    (fun t => t.cpuMem.read 0x310 == 0x42 && t.cycles == 5 && pOf t == 0x24) = true := by decide +kernel

/-- spec/95 2.1 row 9. -/
theorem test_sta_ram_mirror : runs [0x8D, 0x00, 0x08] ({ cpu with a := 0x3C })
    (fun t => t.cpuMem.read 0x0 == 0x3C && t.cpuMem.read 0x800 == 0x00 && t.cycles == 4) = true := by decide +kernel

/-- spec/95 2.1 row 14. -/
theorem test_stx_zpy_wrap : runs [0x96, 0xF0] ({ cpu with x := 0x77, y := 0x11 })
    (fun t => t.cpuMem.read 0x01 == 0x77 && t.cpuMem.read 0x101 == 0x00 && t.cycles == 4) = true := by decide +kernel

/-- spec/95 rule R206. -/
theorem test_sty_zp : runs [0x84, 0x12] ({ cpu with y := 0x9A, a := 0x55 })
    (fun t => t.cpuMem.read 0x12 == 0x9A && pOf t == 0x24 && t.cycles == 3) = true := by decide +kernel

/-- spec/95 2.1 row 12. -/
theorem test_tax : runs [0xAA] ({ cpu with a := 0x00, x := 0x05 })
    (fun t => t.x == 0x00 && pOf t == 0x26 && t.cycles == 2) = true := by decide +kernel

/-- spec/95 rule R208. -/
theorem test_tay : runs [0xA8] ({ cpu with a := 0x81, y := 0x05 })
    (fun t => t.y == 0x81 && pOf t == 0xA4 && t.cycles == 2) = true := by decide +kernel

/-- spec/95 rule R209. -/
theorem test_txa : runs [0x8A] ({ cpu with a := 0x81, x := 0x05 })
    (fun t => t.a == 0x05 && pOf t == 0x24 && t.cycles == 2) = true := by decide +kernel

/-- spec/95 rule R210. -/
theorem test_tya : runs [0x98] ({ cpu with a := 0x81, y := 0x00, x := 0x05 })
    (fun t => t.a == 0x00 && pOf t == 0x26 && t.cycles == 2) = true := by decide +kernel

/-- spec/95 2.1 row 11. -/
theorem test_tsx : runs [0xBA] ({ cpu with sp := 0x80 })
    (fun t => t.x == 0x80 && pOf t == 0xA4 && t.sp == 0x80 && t.cycles == 2) = true := by decide +kernel

/-- spec/95 2.1 row 10. -/
theorem test_txs_no_flags : runs [0x9A] (withP 0xA4 { cpu with x := 0x00 })
    (fun t => t.sp == 0x00 && pOf t == 0xA4 && t.cycles == 2) = true := by decide +kernel

/-- spec/95 2.2 row 4. -/
theorem test_adc_overflow : runs [0x69, 0x90] ({ cpu with a := 0xD0 })
    (fun t => t.a == 0x60 && pOf t == 0x65 && t.cycles == 2) = true := by decide +kernel

/-- spec/95 2.2 row 3. -/
theorem test_adc_decimal_ignored : runs [0x69, 0x01] (withP 0x2C { cpu with a := 0x09 })
    (fun t => t.a == 0x0A && pOf t == 0x2C && t.cycles == 2) = true := by decide +kernel

/-- spec/95 2.2 row 9. -/
theorem test_sbc_overflow : runs [0xE9, 0x01] (withP 0x25 { cpu with a := 0x80 })
    (fun t => t.a == 0x7F && pOf t == 0x65 && t.cycles == 2) = true := by decide +kernel

/-- spec/95 2.2 row 8. -/
theorem test_sbc_borrow : runs [0xE9, 0x00] (cpu)
    (fun t => t.a == 0xFF && pOf t == 0xA4 && t.cycles == 2) = true := by decide +kernel

/-- spec/95 2.2 row 16. -/
theorem test_and : runs [0x29, 0x0F] ({ cpu with a := 0xF0 })
    (fun t => t.a == 0x00 && pOf t == 0x26 && t.cycles == 2) = true := by decide +kernel

/-- spec/95 2.2 row 17. -/
theorem test_ora : runs [0x09, 0x80] ({ cpu with a := 0x01 })
    (fun t => t.a == 0x81 && pOf t == 0xA4 && t.cycles == 2) = true := by decide +kernel

/-- spec/95 2.2 row 18. -/
theorem test_eor : runs [0x49, 0xFF] ({ cpu with a := 0xFF })
    (fun t => t.a == 0x00 && pOf t == 0x26 && t.cycles == 2) = true := by decide +kernel

/-- spec/95 2.2 row 12. -/
theorem test_cmp_less : runs [0xC9, 0x41] (withP 0x25 { cpu with a := 0x40 })
    (fun t => t.a == 0x40 && pOf t == 0xA4 && t.cycles == 2) = true := by decide +kernel

/-- spec/95 2.2 row 13. -/
theorem test_cmp_keeps_v : runs [0xC9, 0x00] (withP 0x64 { cpu with a := 0x80 })
    (fun t => t.a == 0x80 && pOf t == 0xE5 && t.cycles == 2) = true := by decide +kernel

/-- spec/95 2.2 row 14. -/
theorem test_cpx : runs [0xE0, 0xFF] (cpu)
    (fun t => pOf t == 0x24 && t.x == 0x00 && t.cycles == 2) = true := by decide +kernel

/-- spec/95 2.2 row 15. -/
theorem test_cpy : runs [0xC4, 0x10] (pokes 0x10 [0x0F] ({ cpu with y := 0x10 }))
    (fun t => pOf t == 0x25 && t.y == 0x10 && t.cycles == 3) = true := by decide +kernel

/-- spec/95 2.2 row 19. -/
theorem test_bit_clear : runs [0x24, 0x10] (pokes 0x10 [0xC0] ({ cpu with a := 0x01 }))
    (fun t => t.a == 0x01 && pOf t == 0xE6 && t.cycles == 3) = true := by decide +kernel

/-- spec/95 2.2 row 20. -/
theorem test_bit_set : runs [0x24, 0x10] (pokes 0x10 [0x40] (withP 0xA4 { cpu with a := 0x40 }))
    (fun t => pOf t == 0x64 && t.cycles == 3) = true := by decide +kernel

/-- spec/95 2.3 row 2. -/
theorem test_asl_acc : runs [0x0A] (withP 0x25 { cpu with a := 0x41 })
    (fun t => t.a == 0x82 && pOf t == 0xA4 && t.cycles == 2) = true := by decide +kernel

/-- spec/95 2.3 row 7. -/
theorem test_asl_abx : runs [0x1E, 0xF0, 0x02] (pokes 0x310 [0x40] ({ cpu with x := 0x20 }))
    (fun t => t.cpuMem.read 0x310 == 0x80 && pOf t == 0xA4 && t.cycles == 7) = true := by decide +kernel

/-- spec/95 2.3 row 3. -/
theorem test_lsr_acc : runs [0x4A] (withP 0xA4 { cpu with a := 0x01 })
    (fun t => t.a == 0x00 && pOf t == 0x27 && t.cycles == 2) = true := by decide +kernel

/-- spec/95 2.3 row 4. -/
theorem test_rol_acc : runs [0x2A] (withP 0x25 { cpu with a := 0x80 })
    (fun t => t.a == 0x01 && pOf t == 0x25 && t.cycles == 2) = true := by decide +kernel

/-- spec/95 2.3 row 5. -/
theorem test_ror_acc : runs [0x6A] (withP 0x25 { cpu with a := 0x01 })
    (fun t => t.a == 0x80 && pOf t == 0xA5 && t.cycles == 2) = true := by decide +kernel

/-- spec/95 2.3 row 6. -/
theorem test_ror_zp : runs [0x66, 0x10] (cpu)
    (fun t => t.cpuMem.read 0x10 == 0x00 && pOf t == 0x26 && t.cycles == 5) = true := by decide +kernel

/-- spec/95 2.3 row 8. -/
theorem test_inc_wrap : runs [0xE6, 0x10] (pokes 0x10 [0xFF] (cpu))
    (fun t => t.cpuMem.read 0x10 == 0x00 && pOf t == 0x26 && t.cycles == 5) = true := by decide +kernel

/-- spec/95 2.3 row 9. -/
theorem test_dec_wrap : runs [0xC6, 0x10] (cpu)
    (fun t => t.cpuMem.read 0x10 == 0xFF && pOf t == 0xA4 && t.cycles == 5) = true := by decide +kernel

/-- spec/95 2.3 row 11. -/
theorem test_inx : runs [0xE8] ({ cpu with x := 0xFF })
    (fun t => t.x == 0x00 && pOf t == 0x26 && t.cycles == 2) = true := by decide +kernel

/-- spec/95 2.3 row 12. -/
theorem test_iny : runs [0xC8] ({ cpu with y := 0x7F })
    (fun t => t.y == 0x80 && pOf t == 0xA4 && t.cycles == 2) = true := by decide +kernel

/-- spec/95 2.3 row 13. -/
theorem test_dex : runs [0xCA] ({ cpu with x := 0x01 })
    (fun t => t.x == 0x00 && pOf t == 0x26 && t.cycles == 2) = true := by decide +kernel

/-- spec/95 2.3 row 14. -/
theorem test_dey : runs [0x88] (cpu)
    (fun t => t.y == 0xFF && pOf t == 0xA4 && t.cycles == 2) = true := by decide +kernel

/-- spec/95 2.4 row 1. -/
theorem test_bne_not_taken : runs [0xD0, 0x10] (withP 0x26 cpu)
    (fun t => t.pc == 0xC002 && t.cycles == 2) = true := by decide +kernel

/-- spec/95 2.4 row 2. -/
theorem test_bne_taken : runs [0xD0, 0x10] (cpu)
    (fun t => t.pc == 0xC012 && t.cycles == 3) = true := by decide +kernel

/-- spec/95 2.4 row 3. -/
theorem test_beq_back_cross : runs [0xF0, 0x80] (withP 0x26 cpu)
    (fun t => t.pc == 0xBF82 && t.cycles == 4) = true := by decide +kernel

/-- spec/95 2.4 row 4. -/
theorem test_bcc_back_cross : runs [0x90, 0xFC] (cpu)
    (fun t => t.pc == 0xBFFE && t.cycles == 4) = true := by decide +kernel

/-- spec/95 2.4 row 5. -/
theorem test_bcs_cross : runs [0xB0, 0x01] (withP 0x25 (cpu.setPc 0xC0FD))
    (fun t => t.pc == 0xC100 && t.cycles == 4) = true := by decide +kernel

/-- spec/95 2.4 row 6. -/
theorem test_bpl_no_cross : runs [0x10, 0x00] (cpu.setPc 0xC0FE)
    (fun t => t.pc == 0xC100 && t.cycles == 3) = true := by decide +kernel

/-- spec/95 2.4 row 7. -/
theorem test_bmi_cross : runs [0x30, 0xFD] (withP 0xA4 (cpu.setPc 0xC100))
    (fun t => t.pc == 0xC0FF && t.cycles == 4) = true := by decide +kernel

/-- spec/95 2.4 row 8. -/
theorem test_bvs : runs [0x70, 0x7F] (withP 0x64 cpu)
    (fun t => t.pc == 0xC081 && t.cycles == 3) = true := by decide +kernel

/-- spec/95 2.4 row 9. -/
theorem test_bvc_not_taken : runs [0x50, 0x7F] (withP 0x64 cpu)
    (fun t => t.pc == 0xC002 && t.cycles == 2) = true := by decide +kernel

/-- spec/95 2.4 row 10. -/
theorem test_jmp_abs : runs [0x4C, 0x34, 0x12] (cpu)
    (fun t => t.pc == 0x1234 && t.cycles == 3) = true := by decide +kernel

/-- spec/95 2.4 row 11. -/
theorem test_jmp_ind_wrap : runs [0x6C, 0xFF, 0x02] (pokes 0x300 [0xE0] (pokes 0x200 [0xD0] (pokes 0x2FF [0x00] (cpu))))
    (fun t => t.pc == 0xD000 && t.cycles == 5) = true := by decide +kernel

/-- spec/95 2.4 row 11. -/
theorem test_jmp_ind_no_wrap : runs [0x6C, 0xFF, 0x02] (pokes 0x300 [0xE0] (pokes 0x200 [0xD0] (pokes 0x2FF [0x00] ({ cpu with params := { jmpIndirectPageWrap := false, romWritePolicy := .store } }))))
    (fun t => t.pc == 0xE000 && t.cycles == 5) = true := by decide +kernel

/-- spec/95 2.4 row 13. -/
theorem test_jsr : runs [0x20, 0x00, 0xD0] (cpu.setPc 0xC0FE)
    (fun t => t.cpuMem.read 0x1FD == 0xC1 && t.cpuMem.read 0x1FC == 0x00 && t.sp == 0xFB && t.pc == 0xD000 && t.cycles == 6) = true := by decide +kernel

/-- spec/95 2.4 row 15. -/
theorem test_rts_wrap : runs [0x60] (pokes 0x1FC [0xFF, 0xFF] ({ cpu with sp := 0xFB }))
    (fun t => t.pc == 0x0000 && t.sp == 0xFD && t.cycles == 6) = true := by decide +kernel

/-- spec/95 2.5 row 2. -/
theorem test_pha_wrap : runs [0x48] ({ cpu with a := 0x9C, sp := 0x00 })
    (fun t => t.cpuMem.read 0x100 == 0x9C && t.sp == 0xFF && pOf t == 0x24 && t.cycles == 3) = true := by decide +kernel

/-- spec/95 2.5 row 3. -/
theorem test_pla_wrap : runs [0x68] (withP 0xA4 { cpu with a := 0x33, sp := 0xFF })
    (fun t => t.a == 0x00 && t.sp == 0x00 && pOf t == 0x26 && t.cycles == 4) = true := by decide +kernel

/-- spec/95 2.5 row 5. -/
theorem test_php : runs [0x08] (withP 0xA5 cpu)
    (fun t => t.cpuMem.read 0x1FD == 0xA5 && t.sp == 0xFC && t.cycles == 3) = true := by decide +kernel

/-- spec/95 2.5 row 6. -/
theorem test_plp_ones : runs [0x28] (pokes 0x1FD [0xFF] ({ cpu with sp := 0xFC }))
    (fun t => pOf t == 0xEF && t.sp == 0xFD && t.cycles == 4) = true := by decide +kernel

/-- spec/95 2.5 row 7. -/
theorem test_plp_zeros : runs [0x28] (withP 0x65 { cpu with sp := 0xFC })
    (fun t => pOf t == 0x20 && t.sp == 0xFD && t.cycles == 4) = true := by decide +kernel

/-- spec/95 2.5 row 8. -/
theorem test_clc : runs [0x18] (withP 0x25 cpu)
    (fun t => pOf t == 0x24 && t.cycles == 2) = true := by decide +kernel

/-- spec/95 2.5 row 9. -/
theorem test_sec : runs [0x38] (cpu)
    (fun t => pOf t == 0x25 && t.cycles == 2) = true := by decide +kernel

/-- spec/95 2.5 row 10. -/
theorem test_cli : runs [0x58] (cpu)
    (fun t => pOf t == 0x20 && t.cycles == 2) = true := by decide +kernel

/-- spec/95 2.5 row 11. -/
theorem test_sei : runs [0x78] (withP 0x20 cpu)
    (fun t => pOf t == 0x24 && t.cycles == 2) = true := by decide +kernel

/-- spec/95 2.5 row 12. -/
theorem test_cld : runs [0xD8] (withP 0x2C cpu)
    (fun t => pOf t == 0x24 && t.cycles == 2) = true := by decide +kernel

/-- spec/95 2.5 row 13. -/
theorem test_sed : runs [0xF8] (cpu)
    (fun t => pOf t == 0x2C && t.cycles == 2) = true := by decide +kernel

/-- spec/95 2.5 row 14. -/
theorem test_clv : runs [0xB8] (withP 0x64 cpu)
    (fun t => pOf t == 0x24 && t.cycles == 2) = true := by decide +kernel

/-- spec/95 2.5 row 15. -/
theorem test_nop : runs [0xEA] (cpu)
    (fun t => t.pc == 0xC001 && pOf t == 0x24 && t.cycles == 2) = true := by decide +kernel

/-- spec/95 2.5 row 16. -/
theorem test_brk : runs [0x00, 0xFF] (pokes 0xFFFE [0x00, 0xD0] (withP 0x21 cpu))
    (fun t => t.cpuMem.read 0x1FD == 0xC0 && t.cpuMem.read 0x1FC == 0x02 && t.cpuMem.read 0x1FB == 0x31 && t.sp == 0xFA && t.pc == 0xD000 && pOf t == 0x25 && t.cycles == 7) = true := by decide +kernel

/-- spec/95 2.5 row 17. -/
theorem test_rti : runs [0x40] (pokes 0x1FB [0xF3, 0x02, 0xC0] ({ cpu with sp := 0xFA }))
    (fun t => pOf t == 0xE3 && t.pc == 0xC002 && t.sp == 0xFD && t.cycles == 6) = true := by decide +kernel

/-- spec/95 2.5 row 18. -/
theorem test_unknown_02 : runs [0x02] (cpu)
    (fun t => t.pc == 0xC001 && pOf t == 0x24 && t.cycles == 1) = true := by decide +kernel

/-- spec/95 2.5 row 19. -/
theorem test_unknown_ff : runs [0xFF] ({ cpu with a := 0x01, x := 0x02, y := 0x03 })
    (fun t => t.pc == 0xC001 && t.a == 0x01 && t.x == 0x02 && t.y == 0x03 && t.sp == 0xFD && pOf t == 0x24 && t.cycles == 1) = true := by decide +kernel

/-! ### The step: pace, NMI, refusals -/

/-- spec/95 program P1 step 2, from the state after step 1. -/
theorem test_step_pace : runs [0x8D, 0x00, 0x02] (at' 0 6 ({ cpu with a := 0x05, pc := 0xC002, totalCycle := 2 } : State))
    (fun t => t.cpuMem.read 0x200 == 0x05 && t.pc == 0xC005 && t.totalCycle == 6 && t.ppu.scanline == 0 &&
      t.ppu.cycle == 18) = true := by decide +kernel

/-- A state with an NMI due: spec/95 section 2.12 row NMI1. -/
def nmiDue : State :=
  let s := pokes 0xFFFA [0x00, 0x90] (withP 0xA1 (cpu.setPc 0xC123))
  at' 241 40 (s.setPpu { s.ppu with status := 0x80, ctrl := 0x80, nmiEligible := true })

theorem test_nmi_entry : ends (step nmiDue)
    (fun t => t.cpuMem.read 0x1FD == 0xC1 && t.cpuMem.read 0x1FC == 0x23 && t.cpuMem.read 0x1FB == 0xA1 &&
      t.sp == 0xFA && pOf t == 0xA5 && t.pc == 0x9000 && t.nmiServiced && t.cycles == 7 && t.ppu.cycle == 61) = true := by
  decide +kernel

/-- Rows NMI2 to NMI4: with the enable clear, already serviced, or not eligible, the instruction runs (here BRK, 7
cycles, pushing 0xC125). -/
theorem test_nmi_not_taken :
    nmiCondition (nmiDue.setPpu { nmiDue.ppu with ctrl := 0 }) = false ∧
    nmiCondition (nmiDue.setNmiServiced true) = false ∧
    nmiCondition (nmiDue.setPpu { nmiDue.ppu with nmiEligible := false }) = false ∧
    ends (step (nmiDue.setNmiServiced true)) (fun t => t.cpuMem.read 0x1FC == 0x25) = true := by decide +kernel

/-- Item U8: a fetch from a port is refused, at the opcode byte and at an operand byte. -/
theorem test_fetch_refused :
    step (cpu.setPc 0x2000) = .refused .fetchFromPort ∧
    step (pokes 0x7FF [0xA9] (cpu.setPc 0x1FFF)) = .refused .fetchFromPort := ⟨rfl, rfl⟩

/-- An opcode-table word placed for the next step is the instruction that runs (STA 0x0305 from reset, where `PC` is
0x0000). -/
theorem test_withFetchWord :
    fetchInstr (State.reset.withFetchWord 24 0x03058D) = .ok (.sta (.abs 0x0305)) ∧
    decodeTableWord 24 0x03058D = some (.sta (.abs 0x0305)) ∧
    fetchInstr (nmiDue.withFetchWord 8 0xA9) = .ok (.lda (.imm 0x00)) := ⟨rfl, rfl, rfl⟩

/-! ### The bus: spec/95 section 2.6 -/

/-- Row BUS1, on the write alone: the page is copied in order, 513 cycles at an even count, `oam_addr` stays. -/
theorem test_oam_dma : ends (memWrite 0x4014 0x02 (pokes 0x200 [0x01, 0x04, 0x07] { cpu with totalCycle := 2 }))
    (fun t => t.ppu.oam.read 0 == 0x01 && t.ppu.oam.read 1 == 0x04 && t.ppu.oam.read 2 == 0x07 && t.cycles == 513 &&
      t.ppu.oamAddr == 0) = true := by decide +kernel

/-- Row BUS2: 514 cycles at an odd count. -/
theorem test_oam_dma_odd : ends (memWrite 0x4014 0x02 { cpu with totalCycle := 5 }) (fun t => t.cycles == 514) = true := by
  decide +kernel

/-- Rows BUS4, BUS5, BUS6: PPUCTRL through a mirror, the two-step writes. -/
theorem test_port_writes :
    (ends (memWrite 0x3FF8 0x83 cpu) fun t => t.ppu.ctrl == 0x83 && t.ppu.t == 0x0C00) = true ∧
    (ends (andThen (memWrite 0x2005 0x7D cpu) (memWrite 0x2005 0x5E)) fun t =>
      t.ppu.t == 0x616F && t.ppu.fineX == 5 && !t.ppu.w) = true ∧
    (ends (andThen (memWrite 0x2006 0x3F (cpu.setPpu { cpu.ppu with t := 0x616F })) (memWrite 0x2006 0x10)) fun t =>
      t.ppu.t == 0x3F10 && t.ppu.v == 0x3F10 && !t.ppu.w) = true := by decide +kernel

/-- Rows BUS7, BUS8, BUS9, BUS10: PPUDATA. -/
theorem test_data_port :
    (ends (memWrite 0x2007 0x2C (cpu.setPpu { cpu.ppu with v := 0x3F10 })) fun t =>
      t.ppu.mem.read 0x3F00 == 0x2C && t.ppu.v == 0x3F11) = true ∧
    (let r := memRead 0x2007 (cpu.setPpu { cpu.ppu with v := 0x2005, readBuffer := 0x11, mem := [(0x2005, 0xAA)] })
     r.1 == 0x11 && r.2.ppu.readBuffer == 0xAA && r.2.ppu.v == 0x2006) = true ∧
    (let r := memRead 0x2007 (cpu.setPpu { cpu.ppu with v := 0x3F10, mem := [(0x2710, 0x5A), (0x3F00, 0x2C)] })
     r.1 == 0x2C && r.2.ppu.readBuffer == 0x5A && r.2.ppu.v == 0x3F11) = true ∧
    (memRead 0x2007 (cpu.setPpu { cpu.ppu with v := 0x7FFF })).2.ppu.v = 0 := by decide +kernel

/-- Rows BUS12, BUS13: PPUSTATUS. -/
theorem test_status_read :
    (let s := (at' 245 17 (cpu.setPpu { cpu.ppu with status := 0xC0, w := true, nmiEligible := true })).setNmiServiced true
     let r := memRead 0x2002 s
     r.1 == 0xC0 && r.2.ppu.status == 0x40 && !r.2.ppu.w && !r.2.ppu.nmiEligible && !r.2.nmiServiced &&
       !r.2.ppu.nmiSuppress) = true ∧
    (memRead 0x2002 (at' 240 340 cpu)).2.ppu.nmiSuppress = true := by decide +kernel

/-- Rows BUS15, BUS16, BUS17: OAMADDR and OAMDATA. -/
theorem test_oam_ports :
    (ends (andThen (memWrite 0x2003 0xFF cpu) fun s => andThen (memWrite 0x2004 0x11 s) (memWrite 0x2004 0x12)) fun t =>
      t.ppu.oam.read 0xFF == 0x11 && t.ppu.oam.read 0 == 0x12 && t.ppu.oamAddr == 0x01) = true ∧
    (let s := cpu.setPpu { cpu.ppu with oamAddr := 4, oam := [(4, 0x77)] }
     (memRead 0x2004 (at' 100 30 s)).1 == 0xFF && (memRead 0x2004 (at' 100 65 s)).1 == 0x77 &&
       (memRead 0x2004 (at' 245 30 s)).1 == 0x77) = true := by decide +kernel

/-- Row BUS20: the two policies for a write above 0x7FFF. -/
theorem test_rom_write :
    (ends (memWrite 0x8000 0x55 cpu) fun t => t.cpuMem.read 0x8000 == 0x55) = true ∧
    (ends (memWrite 0x8000 0x55 { cpu with params := { jmpIndirectPageWrap := true, romWritePolicy := .discard } })
      fun t => t.cpuMem.read 0x8000 == 0x00) = true := by decide +kernel

/-- Rows BUS21, BUS22, BUS23: nametable and palette mirrors. -/
theorem test_ppu_mirrors :
    ppuCell .vertical 0x2C05 = 0x2405 ∧ ppuCell .vertical 0x2805 = 0x2005 ∧ ppuCell .horizontal 0x2405 = 0x2005 ∧
    ppuCell .horizontal 0x2C05 = 0x2805 ∧ ppuCell .vertical 0x3405 = 0x2405 ∧ ppuCell .vertical 0x3F14 = 0x3F04 ∧
    ppuCell .vertical 0x3F24 = 0x3F04 ∧ ppuCell .vertical 0x3FF4 = 0x3F04 := by decide +kernel

/-! ### The picture unit: spec/95 sections 2.7 to 2.10 -/

/-- Rows F3, F4: the odd-frame skip. -/
theorem test_odd_frame_skip :
    (let s := at' 261 338 (cpu.setPpu { cpu.ppu with mask := 0x08, evenFrame := false })
     let t := runDots 2 s
     t.ppu.scanline == 0 && t.ppu.cycle == 0 && t.ppu.evenFrame) = true ∧
    (let s := at' 261 338 (cpu.setPpu { cpu.ppu with mask := 0x08, evenFrame := true })
     (runDots 2 s).ppu.cycle == 340 && (runDots 3 s).ppu.scanline == 0 && !(runDots 3 s).ppu.evenFrame) = true := by
  decide +kernel

/-- Rows F6, F7: the strobe and the pre-render clear. -/
theorem test_strobe :
    (let t := ppuTick (at' 241 1 cpu)
     t.ppu.status == 0x80 && t.ppu.nmiEligible && t.events == [.resetRead, .clearBuffer, .updateScreen]) = true ∧
    (let s := (at' 261 1 (cpu.setPpu { cpu.ppu with status := 0xE0, nmiEligible := true })).setNmiServiced true
     let t := ppuTick s
     t.ppu.status == 0x00 && !t.ppu.nmiEligible && !t.nmiServiced) = true := by decide +kernel

/-- Rows F8, F9, F10, B6: the updates of `v`. -/
theorem test_scroll_updates :
    verticalIncrement 0x0000 = 0x1000 ∧ verticalIncrement 0x7000 = 0x0020 ∧ verticalIncrement 0x73A0 = 0x0800 ∧
    verticalIncrement 0x7BA0 = 0x0000 ∧ verticalIncrement 0x73E0 = 0x0000 ∧ horizontalReload 0x7FFF 0 = 0x7BE0 ∧
    verticalReload 0x7FFF 0 = 0x041F ∧ coarseXIncrement 0x001F = 0x0400 ∧ coarseXIncrement 0x041F = 0x0000 ∧
    coarseXIncrement 0x2005 = 0x2006 := by decide +kernel

/-- Rows B2, B3, B4, B5: the addresses and the values of a tile fetch. -/
theorem test_tile_fetch :
    ntAddr 0x0042 = 0x2042 ∧ attrAddr 0x0042 = 0x23C0 ∧ attrShift 0x0042 = 6 ∧ attrAddr 0x2BBF = 0x2BFF ∧
    attrShift 0x2BBF = 2 ∧ patternAddr true 0x24 0x5000 = 0x1245 ∧
    tilePixels 2 0xF0 0xCC = [0xB, 0xB, 0x9, 0x9, 0xA, 0xA, 0x8, 0x8] := by decide +kernel

/-- Rows S5, S6, S7, S8: range, row, address, flip. -/
theorem test_sprites :
    (let p := (at' 10 0 cpu).ppu
     p.inRange 3 && !p.inRange 2 && p.inRange 10 && !p.inRange 11) = true ∧
    (let p := (at' 261 0 (cpu.setPpu { cpu.ppu with ctrl := 0x20 })).ppu
     p.inRange 246 && p.inRange 255 && !p.inRange 245) = true ∧
    (let p := { (at' 20 264 cpu).ppu with
       mem := [(0x122, 0x81), (0x12A, 0x01)], secOam := [(0, 18), (1, 0x12), (2, 0x41), (3, 100)],
       eval := { cpu.ppu.eval with fetchCount := 1 } }
     let q := fetchSlot 0 p
     (q.spriteAt 100).color == 3 && (q.spriteAt 107).color == 1 && (q.spriteAt 101).color == 0 &&
       (q.spriteAt 100).palette == 1 && !(q.spriteAt 100).priority) = true ∧
    ({ cpu.ppu with ctrl := 0x20 }).spriteAddr 0x35 11 = 0x1353 ∧
    ({ (at' 21 0 cpu).ppu with ctrl := 0x20 }).spriteRow 10 0x80 = 4 := by decide +kernel

/-- Row S1, from just before the overflow probe: eight slots full, the ninth sprite in range. -/
theorem test_overflow :
    (let s := at' 20 129 (cpu.setPpu { cpu.ppu with
        oam := [(32, 20)], eval := { cpu.ppu.eval with n := 8, count := 8, mode := .ovf } })
     (runDots 1 s).ppu.status == 0 && (runDots 2 s).ppu.status == 0x20 &&
       (runDots 2 s).ppu.eval.mode == .done) = true := by decide +kernel

/-- A picture unit for rule R528: `mask = 0x1E`, the palette of the rule, one background value, one sprite pixel at 100. -/
def mixer (mask : Byte) (col : Nat) (bg : Nibble) (e : SpritePixel) : State :=
  cpu.setPpu { cpu.ppu with
    mask := mask, bgQueue := [bg], spriteBuf := [(col, e)]
    mem := [(0x3F00, 0x0F), (0x3F04, 0x30), (0x3F05, 0x16), (0x3F17, 0x2A)] }

/-- The pixel shown and whether sprite-0 hit was raised. -/
def mixed (mask : Byte) (col : Nat) (bg : Nibble) (e : SpritePixel) : List Event × Byte :=
  let t := composePixel col (mixer mask col bg e)
  (t.events, t.ppu.status)

/-- Rule R528, rows 1 to 7 and the row CMP2. -/
theorem test_priority_table :
    mixed 0x1E 100 0 ⟨0, 0, false, false⟩ = ([.drawPixel 100 0 0x0F 0x1E], 0x00) ∧
    mixed 0x1E 100 0 ⟨3, 1, true, false⟩ = ([.drawPixel 100 0 0x2A 0x1E], 0x00) ∧
    mixed 0x1E 100 5 ⟨0, 1, true, false⟩ = ([.drawPixel 100 0 0x16 0x1E], 0x00) ∧
    mixed 0x1E 100 5 ⟨3, 1, false, false⟩ = ([.drawPixel 100 0 0x2A 0x1E], 0x00) ∧
    mixed 0x1E 100 5 ⟨3, 1, true, false⟩ = ([.drawPixel 100 0 0x2A 0x1E], 0x40) ∧
    mixed 0x1E 100 5 ⟨3, 1, true, true⟩ = ([.drawPixel 100 0 0x16 0x1E], 0x40) ∧
    mixed 0x1E 100 4 ⟨3, 1, true, true⟩ = ([.drawPixel 100 0 0x30 0x1E], 0x40) ∧
    mixed 0x1A 5 5 ⟨3, 1, true, false⟩ = ([.drawPixel 5 0 0x16 0x1A], 0x00) := by decide +kernel

/-! ### Witnesses: for every statement with hypotheses, states and operands that meet them, clause by clause at the ends of
their ranges -/

theorem witness_DecodeOfEncodeIsIdentity :
    (Instr.lda (.imm 0x05)).wf = true ∧ (Instr.sta (.aby 0xFFFF)).wf = true ∧ (Instr.unknown 0xFF).wf = true := by decide

theorem witness_EncodeOfDecodeIsIdentity : decode [0xA9, 0x05, 0x77] = .ok (.lda (.imm 0x05), [0x77]) := rfl

theorem witness_EveryOpcodeByteDecodes :
    decode (0xFF :: [0x01]) = .ok (.unknown 0xFF, [0x01]) ∧ decode (0xEA :: []) = .ok (.nop, []) := ⟨rfl, rfl⟩

/-- LDA #$05 at the last two bytes of the address space: the third byte, at 0x0000, is not fetched. -/
def fetchable : State := pokes 0xFFFE [0xA9, 0x05] (cpu.setPc 0xFFFE)

theorem witness_StepRunsTheDecodedInstruction :
    nmiCondition fetchable = false ∧
    decode [peek fetchable fetchable.pc, peek fetchable (fetchable.pc + 1), peek fetchable (fetchable.pc + 2)] =
      .ok (.lda (.imm 0x05), [0x00]) ∧
    ∀ k : Nat, k + [(0x00 : Byte)].length < 3 → isPort (fetchable.pc + BitVec.ofNat 16 k) = false := by
  refine ⟨rfl, rfl, ?_⟩
  intro k hk
  match k with
  | 0 => rfl
  | 1 => rfl
  | n + 2 => simp only [List.length] at hk; omega

theorem witness_FetchFromPortIsRefused :
    (nmiCondition (cpu.setPc 0x4017) = false ∧ isPort ((cpu.setPc 0x4017).pc + BitVec.ofNat 16 0) = true) ∧
    (let s := pokes 0x7FF [0xA9] (cpu.setPc 0x1FFF)
     nmiCondition s = false ∧ isPort (s.pc + BitVec.ofNat 16 1) = true ∧ 2 ≤ (opcodeMap (peek s s.pc)).length) ∧
    (let s := pokes 0x7FE [0x4C, 0x00] (cpu.setPc 0x1FFE)
     nmiCondition s = false ∧ isPort (s.pc + BitVec.ofNat 16 2) = true ∧ (opcodeMap (peek s s.pc)).length = 3) :=
  ⟨⟨rfl, rfl⟩, ⟨rfl, rfl, by decide⟩, ⟨rfl, rfl, rfl⟩⟩

theorem witness_NmiEntryStep :
    nmiDue.ppu.status.getLsbD 7 = true ∧ nmiDue.ppu.ctrl.getLsbD 7 = true ∧ nmiDue.ppu.nmiEligible = true ∧
    nmiDue.nmiServiced = false ∧
    (let s := nmiDue.setPc 0x2000
     s.ppu.status.getLsbD 7 = true ∧ s.ppu.ctrl.getLsbD 7 = true ∧ s.ppu.nmiEligible = true ∧ s.nmiServiced = false ∧
       isPort s.pc = true) := ⟨rfl, rfl, rfl, rfl, rfl, rfl, rfl, rfl, rfl⟩

/-- `StepPacesThePpu`, `LaunchParametersAreFixed`, `LiveBreakFlagIsNeverWritten`: a step that answers a next state. -/
theorem witness_next_step : ∃ t, step fetchable = .next t := ends_next (by decide +kernel)

theorem witness_StepPacesThePpu : ∃ s t : State, step s = .next t := ⟨fetchable, witness_next_step⟩

theorem witness_LaunchParametersAreFixed : ∃ s t : State, step s = .next t := ⟨fetchable, witness_next_step⟩

theorem witness_LiveBreakFlagIsNeverWritten :
    (∃ s t : State, step s = .next t) ∧ (nmiDue.flags).b = false := ⟨⟨fetchable, witness_next_step⟩, rfl⟩

theorem witness_ResetMeetsTheInvariant :
    let l : Launch := { Launch.blank with cpuImage := [(0, 1), (0xFFFF, 2)], ppuImage := [(0x3FFF, 1)], oam := [(255, 3)] }
    l.cpuImage.wf 0x10000 = true ∧ l.ppuImage.wf 0x4000 = true ∧ l.oam.wf 256 = true := by decide

/-- `fetchable` meets the machine's invariant, and its step answers a next state. -/
theorem witness_StepKeepsTheInvariant : ∃ s t : State, s.Inv ∧ step s = .next t := by
  obtain ⟨t, h⟩ := witness_next_step
  refine ⟨fetchable, t, ⟨by decide, by decide, by decide, ?_⟩, h⟩
  constructor <;> decide

theorem witness_StepKeepsTheQueueBounded : ∃ s t : State, QueueBounded s ∧ step s = .next t := by
  obtain ⟨t, h⟩ := witness_next_step
  exact ⟨fetchable, t, ⟨by decide, by decide, by decide⟩, h⟩

theorem witness_StopsOnlyWhereTheSpecRefuses :
    step (cpu.setPc 0x2000) = .refused .fetchFromPort ∧
    step (pokes 0xC000 [0x8D, 0x14, 0x40] { cpu with a := 0x20 }) = .refused .dmaFromPort ∧
    exec (.sta (.abs 0x4014)) { cpu with a := 0x40 } = .refused .dmaFromPort := ⟨rfl, rfl, rfl⟩

theorem witness_RamWindowsShareTheirCells :
    ((0x0000 : Word).toNat < 0x2000 ∧ (0x1800 : Word).toNat % 0x800 = (0x0000 : Word).toNat % 0x800) ∧
    ((0x1FFF : Word).toNat < 0x2000 ∧ (0x07FF : Word).toNat % 0x800 = (0x1FFF : Word).toNat % 0x800) ∧
    ((0x1FFE : Word).toNat < 0x2000 ∧ (0x1FFE : Word).toNat % 0x800 ≠ (0x1FFF : Word).toNat % 0x800) ∧
    (0x4018 ≤ (0x4018 : Word).toNat ∧ 0x4018 ≤ (0xFFFF : Word).toNat) := by decide

theorem witness_FlatMemoryAboveThePorts : 0x4018 ≤ (0x4018 : Word).toNat ∧ 0x4018 ≤ (0xFFFF : Word).toNat := by decide

theorem witness_AbsentPortsHaveNoEffect :
    (0x4000 ≤ (0x4000 : Word).toNat ∧ (0x4017 : Word).toNat ≤ 0x4017 ∧ (0x4014 : Word).toNat ≠ 0x4016) ∧
    (0x2000 ≤ (0x2000 : Word).toNat ∧ (0x2000 : Word).toNat % 8 = 0) ∧
    ((0x3FFE : Word).toNat ≤ 0x3FFF ∧ (0x3FFE : Word).toNat % 8 = 6) ∧
    ((0x4017 : Word).toNat ≠ 0x4014 ∧ (0x4017 : Word).toNat ≠ 0x4016) ∧
    ((0x3FFA : Word).toNat ≤ 0x3FFF ∧ (0x3FFA : Word).toNat % 8 = 2) := by decide

theorem witness_OamDmaCopiesThePage :
    (0x20 ≤ (0x20 : Byte).toNat ∧ (0x20 : Byte).toNat ≤ 0x40) ∧ (0x20 ≤ (0x40 : Byte).toNat ∧ (0x40 : Byte).toNat ≤ 0x40) ∧
    ¬ (0x20 ≤ (0x1F : Byte).toNat ∧ (0x1F : Byte).toNat ≤ 0x40) ∧
    ¬ (0x20 ≤ (0x41 : Byte).toNat ∧ (0x41 : Byte).toNat ≤ 0x40) := by decide

theorem witness_PpuAddressMirrors :
    ((0x1FFF : Word).toNat < 0x2000) ∧ (0x3000 ≤ (0x3000 : Word).toNat ∧ (0x3EFF : Word).toNat < 0x3F00) ∧
    (cpu.ppu.mirroring = .vertical ∧ 0x2000 ≤ (0x2000 : Word).toNat ∧ (0x27FF : Word).toNat < 0x2800) ∧
    (({ cpu.ppu with mirroring := .horizontal } : Ppu).mirroring = .horizontal ∧ (0x2BFF : Word).toNat < 0x2C00 ∧
      (0x2BFF : Word).toNat % 0x800 < 0x400) ∧
    (0x3F00 ≤ (0x3F00 : Word).toNat ∧ (0x3FDF : Word).toNat < 0x3FE0) ∧
    ((0x3F0C : Word).toNat < 0x3F10 ∧ (0x3F0C : Word).toNat % 4 = 0) := by decide

/-- The clauses about cells that are shared and cells that are not, at the ends of their ranges. -/
theorem witness_PpuAddressMirrors_cells :
    ((0x1FFF : Word).toNat < 0x2000 ∧ (0x3FFF : Word).toNat < 0x4000) ∧
    (0x2000 ≤ (0x2000 : Word).toNat ∧ (0x2FFF : Word).toNat < 0x3000 ∧ cpu.ppu.mirroring = .vertical ∧
      ({ cpu.ppu with mirroring := .horizontal } : Ppu).mirroring = .horizontal) ∧
    (0x2000 ≤ (0x3EFF : Word).toNat ∧ (0x3EFF : Word).toNat < 0x3F00 ∧ 0x3F00 ≤ (0x3F00 : Word).toNat) ∧
    (0x3F00 ≤ (0x3F00 : Word).toNat ∧ (0x3FFF : Word).toNat < 0x4000) := by decide

/-- Two nametables that are one memory in one mirroring mode and two in the other, and the palette entries 0x00, 0x04, 0x08,
0x0C (rules R111, R112). -/
theorem test_ppu_cells_apart :
    ppuCell .vertical 0x2000 = ppuCell .vertical 0x2800 ∧ ppuCell .vertical 0x2000 ≠ ppuCell .vertical 0x2400 ∧
    ppuCell .horizontal 0x2000 = ppuCell .horizontal 0x2400 ∧ ppuCell .horizontal 0x2000 ≠ ppuCell .horizontal 0x2800 ∧
    ppuCell .vertical 0x3F00 ≠ ppuCell .vertical 0x3F04 ∧ ppuCell .vertical 0x3F00 ≠ ppuCell .vertical 0x3F08 ∧
    ppuCell .vertical 0x3F00 ≠ ppuCell .vertical 0x3F0C := by decide

theorem witness_StatusPortRead :
    (0x2000 ≤ (0x2002 : Word).toNat ∧ (0x2002 : Word).toNat % 8 = 2) ∧
    ((0x3FFA : Word).toNat ≤ 0x3FFF ∧ (0x3FFA : Word).toNat % 8 = 2) := by decide

theorem witness_ControlAndMaskWrites :
    (0x2000 ≤ (0x2000 : Word).toNat ∧ (0x2000 : Word).toNat % 8 = 0) ∧
    ((0x3FF9 : Word).toNat ≤ 0x3FFF ∧ (0x3FF9 : Word).toNat % 8 = 1) := by decide

theorem witness_OamPorts :
    (0x2000 ≤ (0x2003 : Word).toNat ∧ (0x2003 : Word).toNat % 8 = 3) ∧
    ((0x3FFC : Word).toNat ≤ 0x3FFF ∧ (0x3FFC : Word).toNat % 8 = 4) := by decide

theorem witness_ScrollAndAddressWrites :
    (0x2000 ≤ (0x2005 : Word).toNat ∧ (0x2005 : Word).toNat % 8 = 5 ∧ cpu.ppu.w = false) ∧
    ((0x3FFE : Word).toNat ≤ 0x3FFF ∧ (0x3FFE : Word).toNat % 8 = 6 ∧ ({ cpu.ppu with w := true } : Ppu).w = true) := by
  decide

theorem witness_DataPort :
    (0x2000 ≤ (0x2007 : Word).toNat ∧ (0x3FFF : Word).toNat ≤ 0x3FFF ∧ (0x3FFF : Word).toNat % 8 = 7) ∧
    (0x7EFF : VramAddr).toNat % 0x4000 < 0x3F00 ∧ 0x3F00 ≤ (0x3F00 : VramAddr).toNat % 0x4000 ∧
    0x3F00 ≤ (0x7FFF : VramAddr).toNat % 0x4000 := by decide

theorem witness_ScrollUpdatesOfADot :
    (239 < (at' 240 8 cpu).ppu.scanline ∧ (at' 240 8 cpu).ppu.scanline ≠ 261) ∧
    (cpu.ppu.mask.getLsbD 3 = false ∧ cpu.ppu.mask.getLsbD 4 = false) ∧
    (∀ c ∈ [8, 248, 256, 257, 280, 304, 328, 336, 0, 340],
      let s := at' 261 c (cpu.setPpu { cpu.ppu with mask := 0x10 })
      s.ppu.scanline = 261 ∧ s.ppu.mask.getLsbD 4 = true ∧ s.ppu.cycle = c) := by decide

theorem witness_VblankAndPreRenderDots :
    ((at' 241 1 cpu).ppu.cycle = 1 ∧ (at' 241 1 cpu).ppu.scanline = 241) ∧
    ((at' 261 1 cpu).ppu.cycle = 1 ∧ (at' 261 1 cpu).ppu.scanline = 261) := by decide

theorem witness_DotCounters :
    (let s := at' 261 339 (cpu.setPpu { cpu.ppu with mask := 0x08, evenFrame := false })
     s.ppu.cycle ≤ 340 ∧ s.ppu.scanline ≤ 261 ∧ s.ppu.scanline = 261 ∧ s.ppu.cycle = 339 ∧ s.ppu.evenFrame = false ∧
       s.ppu.mask.getLsbD 3 = true) ∧
    (let s := at' 261 340 cpu; s.ppu.scanline = 261 ∧ s.ppu.cycle = 340) ∧
    (let s := at' 260 340 cpu; s.ppu.scanline < 261 ∧ s.ppu.cycle = 340) ∧
    (let s := at' 261 339 cpu
     s.ppu.cycle < 340 ∧ ¬ (s.ppu.scanline = 261 ∧ s.ppu.cycle = 339 ∧ s.ppu.evenFrame = false ∧
       (s.ppu.mask.getLsbD 3 = true ∨ s.ppu.mask.getLsbD 4 = true))) := by decide

theorem witness_FrameLength :
    (let s := at' 0 0 cpu
     s.ppu.scanline = 0 ∧ s.ppu.cycle = 0 ∧
       89342 = (if s.ppu.evenFrame = false ∧ (s.ppu.mask.getLsbD 3 = true ∨ s.ppu.mask.getLsbD 4 = true) then 89341
         else 89342)) ∧
    (let s := at' 0 0 (cpu.setPpu { cpu.ppu with mask := 0x08, evenFrame := false })
     s.ppu.scanline = 0 ∧ s.ppu.cycle = 0 ∧
       89341 = (if s.ppu.evenFrame = false ∧ (s.ppu.mask.getLsbD 3 = true ∨ s.ppu.mask.getLsbD 4 = true) then 89341
         else 89342)) := by decide

theorem witness_TileFetch :
    (∀ q ∈ [(0, 8), (239, 256), (261, 328), (261, 336)],
      let p := (at' q.1 q.2 cpu).ppu
      (p.scanline ≤ 239 ∨ p.scanline = 261) ∧ p.cycle % 8 = 0 ∧
        (8 ≤ p.cycle ∧ p.cycle ≤ 256 ∨ 328 ≤ p.cycle ∧ p.cycle ≤ 336)) ∧
    (∀ q ∈ [(240, 8), (260, 8), (0, 9), (0, 0), (0, 264), (0, 320), (0, 337)],
      let p := (at' q.1 q.2 cpu).ppu
      (239 < p.scanline ∧ p.scanline ≠ 261) ∨ p.cycle % 8 ≠ 0 ∨
        (p.cycle < 8 ∨ 256 < p.cycle ∧ p.cycle < 328 ∨ 336 < p.cycle)) := by decide

theorem witness_SecondaryOamIsCleared :
    (∀ l ∈ [0, 239, 261],
      ((at' l 0 cpu).ppu.scanline ≤ 239 ∨ (at' l 0 cpu).ppu.scanline = 261) ∧ (at' l 0 cpu).ppu.cycle = 0) ∧
    (0 < 32 ∧ 31 < 32) := by decide

/-- Line 20, cycle 66, with the evaluator in a mode, at a byte of its sprite and with a byte read, for one sprite height. -/
def evaluating (mode : EvalMode) (m : BitVec 2) (latch ctrl : Byte) : State :=
  at' 20 66 (cpu.setPpu { cpu.ppu with ctrl := ctrl, eval := { cpu.ppu.eval with mode := mode, m := m, latch := latch } })

/-- The first and the last even cycle of the evaluation window. -/
theorem witness_OverflowFlagSource :
    ∀ c ∈ [66, 256],
      let s := at' 261 c (cpu.setPpu { cpu.ppu with eval := { cpu.ppu.eval with mode := .ovf, latch := 0xFF } })
      s.ppu.status.getLsbD 5 = false ∧ (ppuTick s).ppu.status.getLsbD 5 = true := by decide +kernel

/-- The dots of the evaluation clauses: the window's ends on a visible and on the pre-render line, both parities, the latch
dot, and dots outside. -/
theorem witness_OverflowFlagSource_dots :
    (∀ l ∈ [0, 239, 261], ∀ c ∈ [65, 66, 67, 255, 256, 257],
      let p := (at' l c cpu).ppu
      (p.scanline ≤ 239 ∨ p.scanline = 261) ∧ p.cycle = c ∧ (c ≠ 257 → 65 ≤ p.cycle ∧ p.cycle ≤ 256)) ∧
    (∀ q ∈ [(0, 64), (0, 258), (240, 65), (260, 257)],
      let p := (at' q.1 q.2 cpu).ppu
      ¬ ((p.scanline ≤ 239 ∨ p.scanline = 261) ∧ 65 ≤ p.cycle ∧ p.cycle ≤ 257)) := by decide

/-- The evaluator states of the clauses at line 20 and cycle 66: each mode, a byte in range and one not, the last byte of a
sprite and an earlier one. -/
theorem witness_OverflowFlagSource_modes :
    ∀ mode ∈ [EvalMode.y, .rest, .ovf, .done], ∀ tall ∈ [(0x00 : Byte), 0x20],
      let h := if tall = 0x20 then 16 else 8
      (∀ y ∈ [20, 21 - h],
        let p := (evaluating mode 2 (BitVec.ofNat 8 y) tall).ppu
        p.cycle % 2 = 0 ∧ p.eval.mode = mode ∧ p.eval.m.toNat < 3 ∧ p.eval.latch.toNat ≤ p.scanline ∧
          p.scanline < p.eval.latch.toNat + (if p.ctrl.getLsbD 5 then 16 else 8)) ∧
      (∀ y ∈ [21, 20 - h],
        let p := (evaluating mode 3 (BitVec.ofNat 8 y) tall).ppu
        p.cycle % 2 = 0 ∧ p.eval.mode = mode ∧ p.eval.m.toNat = 3 ∧ ¬ (p.eval.latch.toNat ≤ p.scanline ∧
          p.scanline < p.eval.latch.toNat + (if p.ctrl.getLsbD 5 then 16 else 8))) := by decide

theorem witness_SpriteFetchKeepsWrittenColumns :
    cpu.ppu.eval.fetchCount ≤ 0 ∧
    (({ cpu.ppu with spriteBuf := [(255, { color := 1, palette := 0, sprite0 := false, priority := false })] } : Ppu).spriteAt
      255).color ≠ 0 ∧
    (let p : Ppu := { cpu.ppu with secOam := [(3, 10)] }
     9 < (p.secOamRead 3).toNat ∧ (p.secOamRead 3).toNat + 7 < 18 ∧ 255 < 256) := by decide

/-- The clauses about what a column gets (the first and the last pixel of the first and of the last slot, the last column of
the line) and about the dots that fetch and those that do not. -/
theorem witness_SpriteFetchKeepsWrittenColumns_fetch :
    (∀ k ∈ [0, 7], ∀ j ∈ [0, 7],
      let p : Ppu := { cpu.ppu with eval := { cpu.ppu.eval with fetchCount := 8 }, secOam := [(3, 248), (31, 248)] }
      k < p.eval.fetchCount ∧ j < 8 ∧ (p.secOamRead (4 * k + 3)).toNat + j ≤ 255) ∧
    (∀ l ∈ [0, 239, 261], ∀ k ∈ [0, 7],
      let p := (at' l (264 + 8 * k) cpu).ppu
      k < 8 ∧ (p.scanline ≤ 239 ∨ p.scanline = 261) ∧ p.cycle = 264 + 8 * k) ∧
    (∀ q ∈ [(240, 264), (260, 257), (0, 256), (0, 258), (0, 263), (0, 265), (0, 321), (0, 328)],
      let p := (at' q.1 q.2 cpu).ppu
      (239 < p.scanline ∧ p.scanline ≠ 261) ∨
        p.cycle ≠ 257 ∧ ¬ (264 ≤ p.cycle ∧ p.cycle ≤ 320 ∧ p.cycle % 8 = 0)) := by decide

/-- The two worked examples of rule R495: a flipped sprite of 8 rows, and the pattern row of a sprite of 16 rows. -/
theorem test_sprite_fetch_examples :
    (let p : Ppu := { (at' 20 264 cpu).ppu with
        secOam := [(0, 18), (1, 0x12), (2, 0x41), (3, 100)], mem := [(0x0122, 0x81), (0x012A, 0x01)]
        eval := { cpu.ppu.eval with fetchCount := 1 } }
     let q := (fetchSlot 0 p).spriteAt
     (q 100).color = 3 ∧ (q 107).color = 1 ∧ (q 100).palette = 1 ∧ (q 100).priority = false ∧ (q 101).color = 0 ∧
       (q 106).color = 0) ∧
    (let p : Ppu := { (at' 31 264 cpu).ppu with
        ctrl := 0x20, secOam := [(0, 20), (1, 0x35), (2, 0x00), (3, 0)], mem := [(0x1353, 0x80)]
        eval := { cpu.ppu.eval with fetchCount := 1 } }
     ((fetchSlot 0 p).spriteAt 0).color = 1) := by decide +kernel

/-- The five rows of the priority table, at column 7 with both clips open and at column 8 with both clips on. -/
theorem witness_CompositorPriorityTable :
    ∀ q ∈ [((0x1E : Byte), 7), (0x18, 8)], ∀ pr ∈ [false, true],
      let s := mixer q.1 q.2 5 ⟨3, 1, true, pr⟩
      let z := mixer q.1 q.2 0 ⟨3, 1, true, pr⟩
      let e := s.ppu.spriteAt q.2
      (e.color ≠ 0 ∧ s.ppu.mask.getLsbD 4 = true ∧ ¬ (q.2 < 8 ∧ s.ppu.mask.getLsbD 2 = false)) ∧ e.priority = pr ∧
      (s.ppu.mask.getLsbD 3 = true ∧ ¬ (q.2 < 8 ∧ s.ppu.mask.getLsbD 1 = false)) ∧
      (s.ppu.bgQueue.headD 0).toNat ≠ 0 ∧ (z.ppu.bgQueue.headD 0).toNat = 0 ∧
      ¬ ((mixer q.1 q.2 5 ⟨0, 1, true, pr⟩).ppu.spriteAt q.2).color ≠ 0 := by decide +kernel

/-- The dots of its clauses about `ppuTick`: the first and the last of a visible line, and dots outside, among them the last
fetch before the queue is emptied on the pre-render line. -/
theorem witness_CompositorPriorityTable_dots :
    (∀ l ∈ [0, 239], ∀ c ∈ [1, 2, 255, 256],
      let p := (at' l c cpu).ppu
      p.scanline ≤ 239 ∧ 1 ≤ p.cycle ∧ p.cycle ≤ 256) ∧
    (∀ q ∈ [(0, 0), (239, 257), (240, 1), (241, 256), (261, 1), (261, 256)],
      let p := (at' q.1 q.2 cpu).ppu
      ¬ (p.scanline ≤ 239 ∧ 1 ≤ p.cycle ∧ p.cycle ≤ 256)) := by decide

theorem witness_OnePixelPerVisibleDot :
    (∀ q ∈ [(0, 1), (239, 256)], (at' q.1 q.2 cpu).ppu.scanline ≤ 239 ∧ 1 ≤ (at' q.1 q.2 cpu).ppu.cycle ∧
      (at' q.1 q.2 cpu).ppu.cycle ≤ 256) ∧
    (∀ q ∈ [(0, 0), (239, 257), (240, 1), (241, 1)], ¬ ((at' q.1 q.2 cpu).ppu.scanline ≤ 239 ∧
      1 ≤ (at' q.1 q.2 cpu).ppu.cycle ∧ (at' q.1 q.2 cpu).ppu.cycle ≤ 256)) := by decide

theorem witness_EffectiveAddresses :
    ∃ base : Nat, base = (cpu.cpuMem.read (((0xFF : Byte).toNat + 1) % 256)).toNat * 256 +
      (cpu.cpuMem.read (0xFF : Byte).toNat).toNat := ⟨0, by decide⟩

theorem witness_PageCrossPenalty :
    (effAddr (.abs 0x4013) cpu).ea ≠ 0x4014 ∧ (effAddr (.abx 0x4013) { cpu with x := 2 }).ea ≠ 0x4014 ∧
    (MemOperand.abx 0x4013).inRmw = true := by decide

theorem witness_StoresWriteTheirRegister :
    ((Instr.sta (.abs 0x4014) = .sta (.abs 0x4014) ∧ (0x20 : Byte) = ({ cpu with a := 0x20 } : State).a) ∧
      (effAddr (.abs 0x4014) { cpu with a := 0x20 }).ea = 0x4014 ∧ 0x20 ≤ (0x20 : Byte).toNat ∧
      (0x20 : Byte).toNat ≤ 0x40) ∧
    ((Instr.stx (.abs 0x4014) = .stx (.abs 0x4014) ∧ (0x41 : Byte) = ({ cpu with x := 0x41 } : State).x) ∧
      ¬ ((effAddr (.abs 0x4014) { cpu with x := 0x41 }).ea = 0x4014 ∧ 0x20 ≤ (0x41 : Byte).toNat ∧
        (0x41 : Byte).toNat ≤ 0x40)) ∧
    ((Instr.sty (.abs 0x1FFF) = .sty (.abs 0x1FFF) ∧ (0x00 : Byte) = cpu.y) ∧
      isPort (effAddr (.abs 0x1FFF) cpu).ea = false ∧ isPort (effAddr (.abs 0x4018) cpu).ea = false) := by decide

theorem witness_LogicOps (o : ReadOperand) :
    (Instr.and o = .and o ∧ and = and) ∧ (Instr.ora o = .ora o ∧ or = or) ∧ (Instr.eor o = .eor o ∧ xor = xor) :=
  ⟨⟨rfl, rfl⟩, ⟨rfl, rfl⟩, ⟨rfl, rfl⟩⟩

theorem witness_Compares (o : ReadOperand) :
    (Instr.cmp o = .cmp o ∧ cpu.a = cpu.a) ∧ (Instr.cpx o = .cpx o ∧ cpu.x = cpu.x) ∧
    (Instr.cpy o = .cpy o ∧ cpu.y = cpu.y) := ⟨⟨rfl, rfl⟩, ⟨rfl, rfl⟩, ⟨rfl, rfl⟩⟩

/-- The shifts of 0x81 with the carry set. -/
theorem witness_AccumulatorShifts :
    let s : State := withP 0x25 { cpu with a := 0x81 }
    (2 = s.a.toNat * 2 % 256 ∧ true = s.a.getLsbD 7) ∧ (64 = s.a.toNat / 2 ∧ true = s.a.getLsbD 0) ∧
    (3 = s.a.toNat * 2 % 256 + s.flags.c.toNat ∧ true = s.a.getLsbD 7) ∧
    (192 = s.a.toNat / 2 + 128 * s.flags.c.toNat ∧ true = s.a.getLsbD 0) := by decide

/-- The read-modify-write results for the byte 0x81 at the last cell of internal RAM, with the carry set. -/
theorem witness_ReadModifyWrite :
    let s : State := withP 0x25 (pokes 0x7FF [0x81] cpu)
    let v := peek s (effAddr (.abs 0x1FFF) s).ea
    isPort (effAddr (.abs 0x1FFF) s).ea = false ∧
    (2 = v.toNat * 2 % 256 ∧ true = v.getLsbD 7) ∧ (64 = v.toNat / 2 ∧ true = v.getLsbD 0) ∧
    (3 = v.toNat * 2 % 256 + s.flags.c.toNat ∧ true = v.getLsbD 7) ∧
    (192 = v.toNat / 2 + 128 * s.flags.c.toNat ∧ true = v.getLsbD 0) ∧
    (130 = (v.toNat + 1) % 256 ∧ true = s.flags.c) ∧ (128 = (v.toNat + 255) % 256 ∧ true = s.flags.c) := by
  decide +kernel

/-- INC of OAMDATA, whose byte is 0x81, and the port 0x4014: the results the hypotheses name exist whatever the free value
is, and one of the two clauses applies. -/
theorem witness_ReadModifyWriteOnPorts :
    (let s := at' 245 30 (cpu.setPpu { cpu.ppu with oam := [(0, 0x81)] })
     isPort (effAddr (.abs 0x2004) s).ea = true ∧ (0x82 : Byte) = (memRead (effAddr (.abs 0x2004) s).ea s).1 + 1 ∧
       false = s.flags.c ∧ (effAddr (.abs 0x2004) s).ea ≠ 0x4014) ∧
    (isPort (effAddr (.abs 0x4014) cpu).ea = true ∧ (effAddr (.abs 0x4014) cpu).ea = 0x4014 ∧
      ∃ r : Byte, r = (memRead (effAddr (.abs 0x4014) cpu).ea cpu).1 - 1) := by
  refine ⟨by decide +kernel, rfl, rfl, _, rfl⟩

/-- The conditions of the eight branches, taken (all flags set) and not taken. -/
theorem witness_Branches :
    ∀ f ∈ [false, true],
      let s : State := cpu.setFlags { c := f, z := f, i := f, d := f, b := f, v := f, n := f }
      (Instr.bcc 0x80 = .bcc 0x80 ∧ (!f) = !s.flags.c) ∧ (Instr.bcs 0x7F = .bcs 0x7F ∧ f = s.flags.c) ∧
      (Instr.beq 0 = .beq 0 ∧ f = s.flags.z) ∧ (Instr.bne 0 = .bne 0 ∧ (!f) = !s.flags.z) ∧
      (Instr.bmi 0 = .bmi 0 ∧ f = s.flags.n) ∧ (Instr.bpl 0 = .bpl 0 ∧ (!f) = !s.flags.n) ∧
      (Instr.bvc 0 = .bvc 0 ∧ (!f) = !s.flags.v) ∧ (Instr.bvs 0 = .bvs 0 ∧ f = s.flags.v) := by decide

/-- The pointer at the last byte of a page, with the wrap and without. -/
theorem witness_Jump :
    (0x0200 = (if cpu.params.jmpIndirectPageWrap then (0x02FF : Word).toNat / 256 * 256 + ((0x02FF : Word).toNat + 1) % 256
      else ((0x02FF : Word).toNat + 1) % 65536)) ∧
    isPort 0x02FF = false ∧ isPort (BitVec.ofNat 16 0x0200) = false ∧
    (let s : State := { cpu with params := { jmpIndirectPageWrap := false, romWritePolicy := .discard } }
     0x0000 = (if s.params.jmpIndirectPageWrap then (0xFFFF : Word).toNat / 256 * 256 + ((0xFFFF : Word).toNat + 1) % 256
       else ((0xFFFF : Word).toNat + 1) % 65536)) ∧
    isPort 0xFFFF = false ∧ isPort (BitVec.ofNat 16 0x0000) = false := by decide

theorem witness_PushAndPull :
    (0x00 : Byte) = cpu.cpuMem.read (0x100 + (cpu.sp + 1).toNat) ∧
    (0x00 : Byte) = cpu.cpuMem.read (0x100 + (({ cpu with sp := 0xFF } : State).sp + 1).toNat) := by decide

theorem witness_FlagInstructions :
    (Instr.clc = .clc ∧ ({ cpu.flags with c := false } : Flags) = { cpu.flags with c := false }) ∧
    (Instr.nop = .nop ∧ cpu.flags = cpu.flags) := by decide

theorem witness_UnknownOpcodeStep :
    let s := pokes 0xFFFF [0xFF] (cpu.setPc 0xFFFF)
    nmiCondition s = false ∧ isPort s.pc = false ∧ peek s s.pc ∈ unknownOpcodes := by decide +kernel


end Sys2Proof.Tests
end

/-! The scope statements (spec/00_scope.md): what the dots at the end of a step leave alone, how many cycles the CPU part
of a step takes, and the two obligations that follow. -/

namespace Sys2Proof.Machine

/-! ### The end of a step -/

@[simp] theorem runDots_cycles (n : Nat) (s : State) : (runDots n s).cycles = s.cycles := by
  obtain ⟨p, nmi, ev, h, -, -⟩ := runDots_frame n s; rw [h]
@[simp] theorem runDots_totalCycle (n : Nat) (s : State) : (runDots n s).totalCycle = s.totalCycle := by
  obtain ⟨p, nmi, ev, h, -, -⟩ := runDots_frame n s; rw [h]
@[simp] theorem runDots_params (n : Nat) (s : State) : (runDots n s).params = s.params := by
  obtain ⟨p, nmi, ev, h, -, -⟩ := runDots_frame n s; rw [h]
@[simp] theorem runDots_mirroring (n : Nat) (s : State) : (runDots n s).ppu.mirroring = s.ppu.mirroring := by
  obtain ⟨p, nmi, ev, h, hports, -⟩ := runDots_frame n s; rw [h]; exact hports.mirroring

@[simp] theorem finishStep_params (s : State) : (finishStep s).params = s.params := runDots_params _ _
@[simp] theorem finishStep_mirroring (s : State) : (finishStep s).ppu.mirroring = s.ppu.mirroring :=
  runDots_mirroring _ _

/-! ### The cycles of an instruction -/

/-- Between `s` and `t` at least `lo` and at most `hi` cycles were added to the current step's count (rules R13, R610). -/
def CyclesAdded (lo hi : Nat) (s t : State) : Prop :=
  s.cycles + lo ≤ t.cycles ∧ t.cycles ≤ s.cycles + hi

theorem CyclesAdded.of_eq {lo hi n : Nat} {s t : State} (h : t.cycles = s.cycles + n) (hlo : lo ≤ n) (hhi : n ≤ hi) :
    CyclesAdded lo hi s t := by
  unfold CyclesAdded; omega

theorem CyclesAdded.mono {lo hi lo' hi' : Nat} {s t : State} (h : CyclesAdded lo hi s t) (hlo : lo' ≤ lo)
    (hhi : hi ≤ hi') : CyclesAdded lo' hi' s t := by
  unfold CyclesAdded at *; omega

/-- Retiring after a part that added `lo` to `hi` cycles adds the instruction's base cycles to both bounds. -/
theorem CyclesAdded.retire {lo hi n c : Nat} {s u : State} (h : CyclesAdded lo hi s u) :
    CyclesAdded (lo + c) (hi + c) s (Machine.retire n c u) := by
  unfold CyclesAdded at *; rw [retire_cycles]; omega

/-- A bus write adds no cycles, but for the DMA trigger, which adds 513 or 514 (rule R95). -/
theorem memWrite_cycles {a : Word} {v : Byte} {s t : State} (h : memWrite a v s = .next t) :
    CyclesAdded 0 514 s t := by
  unfold memWrite at h
  split at h
  case h_3 =>
    unfold oamDma at h
    split at h
    · cases h
    · cases h
      unfold CyclesAdded
      dsimp only
      split <;> omega
  case h_6 =>
    cases h
    unfold flatWrite
    split <;> exact .of_eq rfl le_rfl (by omega)
  all_goals cases h; exact .of_eq rfl le_rfl (by omega)

/-- The cycles of class R: from the immediate form to IZX, or IZY with a page cross (rules R164, R171). -/
theorem readCost_bounds (o : ReadOperand) (s : State) : 2 ≤ readCost o s ∧ readCost o s ≤ 6 := by
  cases o with
  | imm b =>
    have hcost : readCost (.imm b) s = 2 := rfl
    omega
  | mem m =>
    have hcross := Bool.toNat_le (effAddr m s).crossed
    cases m with
    | izx b =>
      have hcost : readCost (.mem (.izx b)) s = 6 := rfl
      omega
    | _ => simp only [readCost, memReadCost, memReadCycles]; omega

theorem writeCycles_bounds (m : MemOperand) : 3 ≤ writeCycles m ∧ writeCycles m ≤ 6 := by
  cases m <;> simp [writeCycles]

theorem rmwCycles_bounds (m : MemOperand) : 5 ≤ rmwCycles m ∧ rmwCycles m ≤ 7 := by
  cases m <;> simp [rmwCycles]

theorem execRead_cycles {o : ReadOperand} {effect : Byte → State → State} {s t : State}
    (h : execRead o effect s = .next t) (he : ∀ v u, (effect v u).cycles = u.cycles) : CyclesAdded 2 6 s t := by
  cases h
  obtain ⟨hlo, hhi⟩ := readCost_bounds o s
  exact .of_eq (by rw [retire_cycles, he, loadOperand_cycles]) hlo hhi

theorem execStore_cycles {m : MemOperand} {v : Byte} {s t : State} (h : execStore m v s = .next t) :
    CyclesAdded 3 520 s t := by
  obtain ⟨u, hu, hk⟩ := andThen_next h
  cases hk
  obtain ⟨hlo, hhi⟩ := writeCycles_bounds m
  exact (memWrite_cycles hu).retire.mono (by omega) (by omega)

/-- The dearest instruction is a read-modify-write of 7 cycles whose write triggers a DMA of 514. -/
theorem execRmw_cycles {m : MemOperand} {op : ByteOp} {s t : State} (h : execRmw m op s = .next t) :
    CyclesAdded 5 521 s t := by
  obtain ⟨u, hu, hk⟩ := andThen_next h
  cases hk
  obtain ⟨hlo, hhi⟩ := rmwCycles_bounds m
  have hwrite : CyclesAdded 0 514 s u := by
    have hw := memWrite_cycles hu
    unfold CyclesAdded at *
    rwa [State.setFlags_cycles, memRead_cycles] at hw
  exact hwrite.retire.mono (by omega) (by omega)

theorem execShift_cycles {o : ShiftOperand} {op : ByteOp} {s t : State} (h : execShift o op s = .next t) :
    CyclesAdded 2 521 s t := by
  cases o with
  | acc => cases h; exact .of_eq rfl le_rfl (by omega)
  | mem m => exact (execRmw_cycles h).mono (by omega) le_rfl

/-- A branch costs 2 cycles, a taken one 3, and 4 when the target lies on another page (rule R290). -/
theorem execBranch_cycles {cond : Bool} {rel : Byte} {s t : State} (h : execBranch cond rel s = .next t) :
    CyclesAdded 2 4 s t := by
  unfold execBranch at h
  split at h
  · cases h
    have hpage := Bool.toNat_le (decide (hi8 (s.pc + 2 + sext16 rel) ≠ hi8 (s.pc + 2)))
    exact .of_eq rfl (by omega) (by omega)
  · cases h; exact .of_eq rfl le_rfl (by omega)

theorem execJmp_cycles {o : JumpOperand} {s t : State} (h : execJmp o s = .next t) : CyclesAdded 3 5 s t := by
  cases o with
  | abs w => cases h; exact .of_eq (n := 3) rfl le_rfl (by omega)
  | ind w =>
    cases h
    exact .of_eq (n := 5) (by simp only [retireAt, jumpTarget, memRead_cycles, jumpCycles]) (by omega) le_rfl

/-- Every completed instruction costs at least 1 cycle (UNKNOWN, rule R335) and at most 521. -/
theorem exec_cycles {i : Instr} {s t : State} (h : exec i s = .next t) : CyclesAdded 1 521 s t := by
  have hread : ∀ {o : ReadOperand} {effect : Byte → State → State}, execRead o effect s = .next t →
      (∀ v u, (effect v u).cycles = u.cycles) → CyclesAdded 1 521 s t :=
    fun h he => (execRead_cycles h he).mono (by omega) (by omega)
  have hbranch : ∀ {cond : Bool} {rel : Byte}, execBranch cond rel s = .next t → CyclesAdded 1 521 s t :=
    fun h => (execBranch_cycles h).mono (by omega) (by omega)
  cases i with
  | lda | ldx | ldy => simp only [exec, execLda, execLdx, execLdy] at h; exact hread h fun _ _ => rfl
  | and | ora | eor => simp only [exec, execAnd, execOra, execEor] at h; exact hread h fun _ _ => rfl
  | adc | sbc | cmp | cpx | cpy | bit => exact hread h fun _ _ => rfl
  | sta | stx | sty => exact (execStore_cycles h).mono (by omega) (by omega)
  | asl | lsr | rol | ror => exact (execShift_cycles h).mono (by omega) le_rfl
  | inc | dec => exact (execRmw_cycles h).mono (by omega) le_rfl
  | bcc | bcs | beq | bne | bmi | bpl | bvc | bvs => exact hbranch h
  | jmp => exact (execJmp_cycles h).mono (by omega) (by omega)
  | tax | tay | txa | tya | tsx | txs | inx | iny | dex | dey | clc | sec | cli | sei | cld | sed | clv | nop =>
    cases h; exact .of_eq (n := 2) rfl (by omega) (by omega)
  | pha | php => cases h; exact .of_eq (n := 3) rfl (by omega) (by omega)
  | pla | plp => cases h; exact .of_eq (n := 4) rfl (by omega) (by omega)
  | jsr | rts | rti => cases h; exact .of_eq (n := 6) rfl (by omega) (by omega)
  | brk => cases h; exact .of_eq (n := 7) rfl (by omega) (by omega)
  | unknown => cases h; exact .of_eq (n := 1) rfl (by omega) (by omega)

/-! ### The step -/

/-- A completed step ends a CPU part that keeps what only the dots write and takes 1 to 521 cycles. -/
theorem step_cpuPart {s t : State} (h : step s = .next t) :
    ∃ u : State, t = finishStep u ∧ ExecFrame s u ∧ 1 ≤ u.cycles ∧ u.cycles ≤ 521 := by
  obtain ⟨u, ht, hcpu⟩ := step_cases h
  have hcost : CyclesAdded 1 521 (beginStep s) u := by
    rcases hcpu with ⟨-, rfl⟩ | ⟨-, i, -, hi⟩
    · exact .of_eq (n := 7) rfl (by omega) (by omega)
    · exact exec_cycles hi
  obtain ⟨hlo, hhi⟩ := hcost
  have hzero : (beginStep s).cycles = 0 := rfl
  exact ⟨u, ht, step_cpu_execFrame hcpu, by omega, by omega⟩

/-- Settles O8: the state before the dots is the CPU part with its cycles put into `totalCycle`. -/
theorem stepPacesThePpu : Obligations.StepPacesThePpu := by
  intro s t h
  obtain ⟨u, rfl, hframe, hlo, hhi⟩ := step_cpuPart h
  obtain ⟨hcycle, hscanline, hevenFrame, -⟩ := hframe.dots
  have htotal : u.totalCycle + u.cycles = s.totalCycle + u.cycles := by rw [hframe.totalCycle]
  exact ⟨u.setTotalCycle (u.totalCycle + u.cycles), rfl, htotal, hlo, hhi, hcycle, hscanline, hevenFrame,
    runDots_cycles _ _, runDots_totalCycle _ _⟩

/-- Settles O14: neither the CPU part of a step nor its dots write the parameters or the mirroring mode. -/
theorem launchParametersAreFixed : Obligations.LaunchParametersAreFixed := by
  intro s t h
  obtain ⟨u, rfl, hframe, -, -⟩ := step_cpuPart h
  exact ⟨(finishStep_params u).trans hframe.params, (finishStep_mirroring u).trans hframe.dots.mirroring⟩

end Sys2Proof.Machine

/-! The state statements (spec/10_state.md), first those about single instructions: the status byte and `SetNZ`, the stack
and its four instructions, SBC. -/

namespace Sys2Proof.Machine

/-! ### The status byte and the flags -/

/-- The layout of the status byte (rules R34, R35), over the 128 settings of the seven flags. -/
theorem statusByte_bits (f : Flags) :
    (statusByte f).getLsbD 0 = f.c ∧ (statusByte f).getLsbD 1 = f.z ∧ (statusByte f).getLsbD 2 = f.i ∧
      (statusByte f).getLsbD 3 = f.d ∧ (statusByte f).getLsbD 4 = f.b ∧ (statusByte f).getLsbD 5 = true ∧
      (statusByte f).getLsbD 6 = f.v ∧ (statusByte f).getLsbD 7 = f.n := by
  have hall : ∀ c z i d b v n : Bool,
      let p := statusByte { c := c, z := z, i := i, d := d, b := b, v := v, n := n }
      p.getLsbD 0 = c ∧ p.getLsbD 1 = z ∧ p.getLsbD 2 = i ∧ p.getLsbD 3 = d ∧ p.getLsbD 4 = b ∧ p.getLsbD 5 = true ∧
        p.getLsbD 6 = v ∧ p.getLsbD 7 = n := by decide
  exact hall f.c f.z f.i f.d f.b f.v f.n

/-- The byte BRK pushes is the status byte with bit 4 set (rule R36). -/
theorem statusByteBrk_getLsbD (f : Flags) (i : Nat) :
    (statusByteBrk f).getLsbD i = (decide (i = 4) || (statusByte f).getLsbD i) := by
  have hmask : (0x10 : Byte) = BitVec.twoPow 8 4 := rfl
  rw [statusByteBrk, hmask, BitVec.getLsbD_or, BitVec.getLsbD_twoPow, Bool.or_comm]
  simp [eq_comm]

/-- A pulled status byte gives back the flags it was made from (rule R37). -/
theorem loadStatus_statusByte (f : Flags) : loadStatus (statusByte f) f = f := by
  obtain ⟨hc, hz, hi, hd, -, -, hv, hn⟩ := statusByte_bits f
  simp only [loadStatus, bitOf, hc, hz, hi, hd, hv, hn]

theorem bitOf_seven (v : Byte) : bitOf v 7 = decide (0x80 ≤ v.toNat) := BitVec.msb_eq_decide v

/-- `SetNZ` in integers (rule R38). -/
theorem Flags.setNZ_eq (f : Flags) (v : Byte) :
    f.setNZ v = { f with z := decide (v.toNat = 0), n := decide (0x80 ≤ v.toNat) } := by
  have hzero : v = 0 ↔ v.toNat = 0 := BitVec.toNat_inj.symm
  rw [Flags.setNZ, bitOf_seven, decide_eq_decide.mpr hzero]

/-- Settles O56. -/
theorem statusByteLayout : Obligations.StatusByteLayout :=
  fun f _ => ⟨statusByte_bits f, statusByteBrk_getLsbD f, rfl, loadStatus_statusByte f⟩

/-! ### The stack -/

/-- A push writes one byte, in the stack page at the old pointer (rules R32, R43). -/
theorem push8_read (v : Byte) (s : State) (k : Nat) :
    (push8 v s).cpuMem.read k = if k = 0x100 + s.sp.toNat then v else s.cpuMem.read k := by
  rw [push8, Memory.read_write, stackAddr_toNat]

/-- A pull reads the stack page at the new pointer (rules R32, R44). -/
theorem pull8_eq (s : State) : pull8 s = (s.cpuMem.read (0x100 + (s.sp + 1).toNat), s.setSp (s.sp + 1)) := by
  rw [pull8, peek_stack, stackAddr_toNat]

/-- The byte a push wrote is the one a pull reads next (rules R43, R44, R46). -/
theorem push8_read_pulled (v : Byte) (s : State) :
    v = (push8 v s).cpuMem.read (0x100 + ((push8 v s).sp + 1).toNat) := by
  have hback : (push8 v s).sp + 1 = s.sp := BitVec.sub_add_cancel _ _
  rw [hback, push8_read, if_pos rfl]

/-- PLA, given the byte it pulls (rule R323). -/
theorem exec_pla {s : State} {b : Byte} (hb : b = s.cpuMem.read (0x100 + (s.sp + 1).toNat)) :
    exec .pla s = .next { s with
      a := b, flags := s.flags.setNZ b, pc := s.pc + 1, sp := s.sp + 1, cycles := s.cycles + 4 } := by
  subst hb
  simp only [exec, execPla, pull8_eq]
  rfl

/-- PLP, given the byte it pulls (rule R324). -/
theorem exec_plp {s : State} {b : Byte} (hb : b = s.cpuMem.read (0x100 + (s.sp + 1).toNat)) :
    exec .plp s = .next { s with
      flags := loadStatus b s.flags, pc := s.pc + 1, sp := s.sp + 1, cycles := s.cycles + 4 } := by
  subst hb
  simp only [exec, execPlp, pull8_eq]
  rfl

/-- Settles O57: a pull reads the cell its pointer comes to, which after a push holds the byte pushed. -/
theorem pushAndPull : Obligations.PushAndPull := by
  refine ⟨⟨rfl, rfl, rfl, rfl⟩, fun s => ⟨?pha, ?php, fun b hb => ⟨?pla, exec_plp hb⟩⟩⟩
  case pha =>
    refine ⟨retire 1 3 (push8 s.a s), rfl, push8_read s.a s, rfl, ?_⟩
    exact ⟨_, exec_pla (push8_read_pulled s.a s), rfl, BitVec.sub_add_cancel _ _, Flags.setNZ_eq _ _⟩
  case php =>
    refine ⟨retire 1 3 (push8 (statusByte s.flags) s), rfl, push8_read _ s, rfl, ?_⟩
    exact ⟨_, exec_plp (push8_read_pulled (statusByte s.flags) s), loadStatus_statusByte s.flags,
      BitVec.sub_add_cancel _ _⟩
  case pla => exact ⟨_, exec_pla hb, Flags.setNZ_eq _ _, rfl⟩

/-! ### The eight-mode group -/

/-- A mnemonic whose opcode and operand bytes are those of the eight-mode group has the group's encodings (rule R230). -/
theorem groupEncoding_of {g : Byte} {f : ReadOperand → Instr} (hop : ∀ o, (f o).opcode = o.groupOpcode g)
    (hbytes : ∀ o, (f o).operandBytes = o.bytes) : GroupEncoding g f := by
  intro b w
  simp only [encode, hop, hbytes]
  exact ⟨rfl, rfl, rfl, rfl, rfl, rfl, rfl, rfl⟩

/-! ### SBC -/

/-- The mask 0x80 tests the sign bit of a byte. -/
theorem and_0x80_ne_zero_iff (x : Byte) : x &&& 0x80 ≠ 0 ↔ x.msb = true := by
  revert x; decide

/-- The signed value of a byte, by its sign bit. -/
theorem byte_toInt_eq (x : Byte) : x.toInt = x.toNat - if 0x80 ≤ x.toNat then 256 else 0 := by
  rw [BitVec.toInt_eq_toNat_cond]; split <;> split <;> omega

/-- What rule R232 subtracts beside the operand: 1 when the carry is clear. -/
def borrowOf (f : Flags) : Int := if f.c then 0 else 1

theorem one_sub_carry (f : Flags) : (1 : Int) - f.c.toNat = borrowOf f := by
  unfold borrowOf; cases f.c <;> rfl

theorem borrowOf_cases (f : Flags) : borrowOf f = 0 ∨ borrowOf f = 1 := by
  unfold borrowOf; cases f.c <;> simp

/-- The overflow formula of rule R232 is set exactly when the signed difference leaves -128..127. -/
theorem sbc_overflow_iff (a m r : Byte) (borrow : Int) (hb : borrow = 0 ∨ borrow = 1)
    (hr : (r.toNat : Int) = ((a.toNat : Int) - m.toNat - borrow) % 256) :
    (a ^^^ r) &&& (a ^^^ m) &&& 0x80 ≠ 0 ↔
      a.toInt - m.toInt - borrow < -128 ∨ 127 < a.toInt - m.toInt - borrow := by
  have ha := a.isLt
  have hm := m.isLt
  rw [and_0x80_ne_zero_iff, BitVec.msb_and, BitVec.msb_xor, BitVec.msb_xor, byte_toInt_eq, byte_toInt_eq]
  simp only [BitVec.msb_eq_decide, Bool.and_eq_true, bne_iff_ne, ne_eq, decide_eq_decide]
  split <;> split <;> omega

/-- The difference modulo 256 (rule R232). -/
theorem sbcState_a_toNat (m : Byte) (s : State) :
    ((sbcState m s).a.toNat : Int) = ((s.a.toNat : Int) - m.toNat - borrowOf s.flags) % 256 := by
  have hnarrow : (sbcState m s).a = BitVec.ofInt 8 ((s.a.toNat : Int) - m.toNat - borrowOf s.flags) := by
    rw [← one_sub_carry]; rfl
  rw [hnarrow, BitVec.toNat_ofInt]
  exact Int.toNat_of_nonneg (Int.emod_nonneg _ (by decide))

/-- The flags of SBC in integers (rule R232). -/
theorem sbcState_flags (m : Byte) (s : State) :
    (sbcState m s).flags = { s.flags with
      c := decide (0 ≤ (s.a.toNat : Int) - m.toNat - borrowOf s.flags)
      z := decide ((sbcState m s).a.toNat = 0)
      n := decide (0x80 ≤ (sbcState m s).a.toNat)
      v := decide (s.a.toInt - m.toInt - borrowOf s.flags < -128 ∨ 127 < s.a.toInt - m.toInt - borrowOf s.flags) } := by
  have hoverflow := sbc_overflow_iff s.a m (sbcState m s).a _ (borrowOf_cases s.flags) (sbcState_a_toNat m s)
  rw [← decide_eq_decide.mpr hoverflow, ← one_sub_carry]
  exact Flags.setNZ_eq _ _

/-- Settles O45: the operand is read once, which leaves registers, flags and memory alone, and `sbcState` is applied. -/
theorem subtractWithBorrow : Obligations.SubtractWithBorrow := by
  refine ⟨groupEncoding_of (fun _ => rfl) (fun _ => rfl), fun _ _ => rfl, fun _ _ => rfl, fun o s => ?_⟩
  intro m borrow
  have ha := sbcState_a_toNat m (loadOperand o s).2
  have hflags := sbcState_flags m (loadOperand o s).2
  have hoverflow := sbc_overflow_iff s.a m _ _ (borrowOf_cases s.flags) (by rw [ha, loadOperand_a, loadOperand_flags])
  rw [loadOperand_a, loadOperand_flags] at ha hflags
  refine ⟨_, execRead_eq o sbcState s, ha, hflags, ?_, ?_⟩
  · rw [retire_flags, hflags]
    exact decide_eq_true_iff.trans hoverflow.symm
  · exact ⟨loadOperand_x o s, loadOperand_y o s, loadOperand_sp o s,
      ⟨congrArg (· + _) (loadOperand_pc o s), congrArg (· + _) (loadOperand_cycles o s), loadOperand_totalCycle o s⟩,
      fun k => congrArg (Memory.read · k) (loadOperand_cpuMem o s), rfl, rfl, rfl, rfl, rfl⟩

end Sys2Proof.Machine

/-! The state statements about a whole step: the state after reset, the live break flag, the machine's invariant and the
bound of the background queue, each kept by the CPU part of a step and by every dot. -/

namespace Sys2Proof.Machine

/-! ### The state after reset -/

/-- Settles O9: every field is a field of `State.launch`; an empty array reads as its fill value. -/
theorem resetState : Obligations.ResetState := by
  intro l
  refine ⟨rfl, rfl, rfl, rfl, rfl, rfl, rfl, rfl, rfl, rfl, rfl, rfl, rfl, rfl, rfl, rfl, rfl, rfl, rfl, rfl, rfl, rfl,
    rfl, rfl, rfl, fun _ => rfl, fun _ => rfl, rfl, rfl, rfl, rfl, rfl, rfl⟩

theorem launch_inv {l : Launch} (hcpu : l.cpuImage.wf 0x10000 = true) (hppu : l.ppuImage.wf 0x4000 = true)
    (hoam : l.oam.wf 256 = true) : (State.launch l).Inv where
  cpuMem_wf := hcpu
  break_clear := rfl
  serviced_vblank := nofun
  ppu :=
    { mem_wf := hppu
      oam_wf := hoam
      secOam_wf := rfl
      spriteBuf_wf := rfl
      cycle_le := Nat.zero_le _
      scanline_le := Nat.zero_le _
      status_low := BitVec.zero_and
      count_le := Nat.zero_le _
      slot_free := by simp [State.launch, Ppu.launch, SpriteEval.reset]
      fetchCount_le := Nat.zero_le _
      eligible_vblank := nofun }

theorem launch_queueBounded (l : Launch) : QueueBounded (State.launch l) :=
  ⟨Nat.zero_le _, Nat.zero_le _, Nat.zero_le _⟩

/-- Settles O10: `State.reset` is the launch of a blank image. -/
theorem resetMeetsTheInvariant : Obligations.ResetMeetsTheInvariant :=
  ⟨fun l hcpu hppu hoam => ⟨launch_inv hcpu hppu hoam, launch_queueBounded l⟩,
    launch_inv State.reset_cpuMem_wf State.reset_ppuMem_wf State.reset_oam_wf, launch_queueBounded Launch.blank⟩

/-! ### The live break flag -/

@[simp] theorem runDots_flags (n : Nat) (s : State) : (runDots n s).flags = s.flags := by
  obtain ⟨p, nmi, ev, h, -, -⟩ := runDots_frame n s; rw [h]

@[simp] theorem finishStep_flags (s : State) : (finishStep s).flags = s.flags := runDots_flags _ _

/-- Settles O13: an instruction keeps the live break flag (`ExecFrame`), and dots write no flag. -/
theorem liveBreakFlagIsNeverWritten : Obligations.LiveBreakFlagIsNeverWritten := by
  refine ⟨fun _ => rfl, fun s t h => ?_, fun f hf => ?_⟩
  · obtain ⟨u, rfl, hframe, -, -⟩ := step_cpuPart h
    rw [finishStep_flags]
    exact hframe.breakFlag
  · obtain ⟨-, -, -, -, hb, -, -, -⟩ := statusByte_bits f
    exact hb.trans hf

/-! ### Runs of dots -/

/-- What every dot keeps, a run of dots keeps. -/
theorem runDots_induction {P : State → Prop} (htick : ∀ s, P s → P (ppuTick s)) (n : Nat) :
    ∀ s, P s → P (runDots n s) := by
  induction n with
  | zero => exact fun _ h => h
  | succ n ih => exact fun s h => ih _ (htick s h)

/-- What every dot keeps and the accounting of the cycles cannot break, the end of a step keeps (rule R610). -/
theorem finishStep_induction {P : State → Prop} (htick : ∀ s, P s → P (ppuTick s)) {s : State}
    (h : P (s.setTotalCycle (s.totalCycle + s.cycles))) : P (finishStep s) :=
  runDots_induction htick _ _ h

/-! ### The position after a dot -/

/-- The advance of the counters goes one dot on in the same line, or from the end of a line (dot 339 where the odd frame
skips one, else 340) to the start of a line (rules R401, R412). -/
theorem advanceDot_position {p : Ppu} (hc : p.cycle ≤ 340) (hl : p.scanline ≤ 261) :
    ((advanceDot p).cycle = p.cycle + 1 ∧ p.cycle < 340 ∧ (advanceDot p).scanline = p.scanline) ∨
    ((advanceDot p).cycle = 0 ∧ 339 ≤ p.cycle ∧ (advanceDot p).scanline ≤ 261) := by
  by_cases hend : p.cycle + 1 = 341
  · have hadvance : advanceDot p =
        if p.scanline + 1 = 262 then { p with cycle := 0, scanline := 0, evenFrame := !p.evenFrame }
        else { p with cycle := 0, scanline := p.scanline + 1 } := by
      simp only [advanceDot, if_pos hend]
      refine if_neg fun hskip => ?_
      obtain ⟨-, hcycle, -⟩ := hskip
      split at hcycle <;> cases hcycle
    right
    rw [hadvance]
    split
    · exact ⟨rfl, by omega, Nat.zero_le _⟩
    · exact ⟨rfl, by omega, by dsimp only; omega⟩
  · simp only [advanceDot, if_neg hend]
    split
    next hskip =>
      obtain ⟨-, hcycle, -⟩ := hskip
      exact .inr ⟨rfl, by omega, Nat.zero_le _⟩
    next => exact .inl ⟨rfl, by omega, rfl⟩

/-! ### The invariant under CPU work -/

/-- The invariant speaks only of the CPU array, the live break flag, the NMI latch and the picture unit. -/
theorem State.Inv.congr {s t : State} (h : s.Inv) (hmem : t.cpuMem = s.cpuMem) (hbreak : t.flags.b = s.flags.b)
    (hnmi : t.nmiServiced = s.nmiServiced) (hppu : t.ppu = s.ppu) : t.Inv := by
  obtain ⟨hwf, hb, hv, hp⟩ := h
  exact ⟨hmem ▸ hwf, hbreak.trans hb, by rwa [hnmi, hppu], hppu ▸ hp⟩

theorem State.Inv.setFlags {s : State} {f : Flags} (h : s.Inv) (hbreak : f.b = s.flags.b) : (s.setFlags f).Inv :=
  h.congr rfl hbreak rfl rfl

theorem State.Inv.addCycles {s : State} (n : Nat) (h : s.Inv) : (addCycles n s).Inv := h.congr rfl rfl rfl rfl

theorem State.Inv.retire {s : State} (n c : Nat) (h : s.Inv) : (retire n c s).Inv := h.congr rfl rfl rfl rfl

theorem State.Inv.retireAt {s : State} (target : Word) (c : Nat) (h : s.Inv) : (retireAt target c s).Inv :=
  h.congr rfl rfl rfl rfl

/-- The picture unit's invariant, from what only the dots write, PPUSTATUS and NMI eligibility being unchanged. -/
theorem Ppu.Inv.of_sameDots {p q : Ppu} (h : p.Inv) (hd : SameDots p q) (hmem : q.mem.wf 0x4000 = true)
    (hoam : q.oam.wf 256 = true) (hstatus : q.status = p.status) (heligible : q.nmiEligible = p.nmiEligible) :
    q.Inv where
  mem_wf := hmem
  oam_wf := hoam
  secOam_wf := hd.secOam ▸ h.secOam_wf
  spriteBuf_wf := hd.spriteBuf ▸ h.spriteBuf_wf
  cycle_le := hd.cycle ▸ h.cycle_le
  scanline_le := hd.scanline ▸ h.scanline_le
  status_low := hstatus ▸ h.status_low
  count_le := hd.eval ▸ h.count_le
  slot_free := hd.eval ▸ h.slot_free
  fetchCount_le := hd.eval ▸ h.fetchCount_le
  eligible_vblank := by unfold Ppu.vblank; rw [hstatus, heligible]; exact h.eligible_vblank

theorem scrollWrite_status (v : Byte) (p : Ppu) :
    (scrollWrite v p).status = p.status ∧ (scrollWrite v p).nmiEligible = p.nmiEligible := by
  unfold scrollWrite; split <;> exact ⟨rfl, rfl⟩

theorem addrWrite_status (v : Byte) (p : Ppu) :
    (addrWrite v p).status = p.status ∧ (addrWrite v p).nmiEligible = p.nmiEligible := by
  unfold addrWrite; split <;> exact ⟨rfl, rfl⟩

theorem ppuPortWrite_status (port : BitVec 3) (v : Byte) (p : Ppu) :
    (ppuPortWrite port v p).status = p.status ∧ (ppuPortWrite port v p).nmiEligible = p.nmiEligible := by
  unfold ppuPortWrite
  split_ifs
  exacts [⟨rfl, rfl⟩, ⟨rfl, rfl⟩, ⟨rfl, rfl⟩, ⟨rfl, rfl⟩, ⟨rfl, rfl⟩, scrollWrite_status v p, addrWrite_status v p,
    ⟨rfl, rfl⟩]

theorem ppuPortWrite_inv {p : Ppu} (port : BitVec 3) (v : Byte) (h : p.Inv) : (ppuPortWrite port v p).Inv := by
  obtain ⟨hmem, hoam⟩ := ppuPortWrite_wf (port := port) (v := v) h.mem_wf h.oam_wf
  obtain ⟨hstatus, heligible⟩ := ppuPortWrite_status port v p
  exact h.of_sameDots (ppuPortWrite_sameDots port v p) hmem hoam hstatus heligible

/-- A replaced picture unit that meets its invariant and keeps a set vblank bit keeps the machine's invariant. -/
theorem State.Inv.setPpu {s : State} {p : Ppu} (h : s.Inv) (hp : p.Inv)
    (hvblank : s.ppu.vblank = true → p.vblank = true) : (s.setPpu p).Inv :=
  ⟨h.cpuMem_wf, h.break_clear, fun hn => hvblank (h.serviced_vblank hn), hp⟩

/-- A PPUSTATUS read clears the vblank bit and with it the NMI latch and eligibility (rule R364). -/
theorem statusRead_inv {s : State} (h : s.Inv) : (statusRead s).2.Inv := by
  have hlow : s.ppu.status &&& 0x7F &&& 0x1F = 0 := by
    rw [BitVec.and_assoc]; exact h.ppu.status_low
  exact ⟨h.cpuMem_wf, h.break_clear, nofun, { h.ppu with status_low := hlow, eligible_vblank := nofun }⟩

theorem dataRead_inv {s : State} (h : s.Inv) : (s.setPpu (dataRead s.ppu).2).Inv := by
  unfold dataRead
  dsimp only
  split <;> exact h.setPpu { h.ppu with } id

theorem memRead_inv {s : State} (a : Word) (h : s.Inv) : (memRead a s).2.Inv := by
  unfold memRead
  split
  case h_2 port _ =>
    unfold ppuPortRead
    split_ifs
    · exact statusRead_inv h
    · exact h
    · exact dataRead_inv h
    · exact h
  case h_4 => exact h.congr rfl rfl rfl rfl
  all_goals exact h

theorem oamDma_inv {page : Byte} {s t : State} (hs : s.Inv) (h : oamDma page s = .next t) : t.Inv := by
  unfold oamDma at h
  split at h
  · cases h
  · cases h
    exact ⟨hs.cpuMem_wf, hs.break_clear, hs.serviced_vblank,
      { hs.ppu with oam_wf := oamCopy_wf 256 le_rfl hs.ppu.oam_wf }⟩

theorem memWrite_inv {a : Word} {v : Byte} {s t : State} (hs : s.Inv) (h : memWrite a v s = .next t) : t.Inv := by
  have hmem := memWrite_cpuMem_wf h hs.cpuMem_wf
  unfold memWrite at h
  split at h
  case h_2 =>
    cases h
    refine hs.setPpu (ppuPortWrite_inv _ _ hs.ppu) fun hv => ?_
    unfold Ppu.vblank at *
    rwa [(ppuPortWrite_status _ _ _).1]
  case h_3 => exact oamDma_inv hs h
  case h_6 =>
    cases h
    unfold flatWrite at *
    split_ifs at * with hdiscard
    · exact hs
    · exact ⟨hmem, hs.break_clear, hs.serviced_vblank, hs.ppu⟩
  all_goals cases h; exact ⟨hmem, hs.break_clear, hs.serviced_vblank, hs.ppu⟩

theorem push8_inv {s : State} (v : Byte) (h : s.Inv) : (push8 v s).Inv :=
  ⟨push8_cpuMem_wf h.cpuMem_wf, h.break_clear, h.serviced_vblank, h.ppu⟩

theorem push16_inv {s : State} (w : Word) (h : s.Inv) : (push16 w s).Inv :=
  push8_inv _ (push8_inv _ h)

theorem enterInterrupt_inv {s : State} (ret : Word) (status : Byte) (vector : Word) (h : s.Inv) :
    (enterInterrupt ret status vector s).Inv :=
  ⟨enterInterrupt_cpuMem_wf h.cpuMem_wf, h.break_clear, h.serviced_vblank, h.ppu⟩

theorem returnFromInterrupt_inv {s : State} (h : s.Inv) : (returnFromInterrupt s).Inv := by
  obtain ⟨f, pc, hret, hbreak⟩ := returnFromInterrupt_frame s
  rw [hret]
  exact h.congr rfl hbreak rfl rfl

theorem execRead_inv {o : ReadOperand} {effect : Byte → State → State} {s t : State} (hs : s.Inv)
    (h : execRead o effect s = .next t) (he : ∀ v u, u.Inv → (effect v u).Inv) : t.Inv := by
  have hload : (loadOperand o s).2.Inv := by
    cases o with
    | imm b => exact hs
    | mem m => exact memRead_inv _ hs
  cases h
  exact (he _ _ hload).retire _ _

theorem execStore_inv {m : MemOperand} {v : Byte} {s t : State} (hs : s.Inv) (h : execStore m v s = .next t) :
    t.Inv := by
  obtain ⟨u, hu, h⟩ := andThen_next h
  cases h
  exact (memWrite_inv hs hu).retire _ _

theorem execRmw_inv {m : MemOperand} {op : ByteOp} {s t : State} (hs : s.Inv) (h : execRmw m op s = .next t)
    (ho : ∀ v f, (op v f).2.b = f.b) : t.Inv := by
  obtain ⟨u, hu, h⟩ := andThen_next h
  cases h
  have hread := (memRead_inv (effAddr m s).ea hs).setFlags (ho (memRead (effAddr m s).ea s).1 _)
  exact (memWrite_inv hread hu).retire _ _

theorem execShift_inv {o : ShiftOperand} {op : ByteOp} {s t : State} (hs : s.Inv) (h : execShift o op s = .next t)
    (ho : ∀ v f, (op v f).2.b = f.b) : t.Inv := by
  cases o with
  | acc => cases h; exact hs.congr rfl (ho _ _) rfl rfl
  | mem m => exact execRmw_inv hs h ho

theorem execBranch_inv {cond : Bool} {rel : Byte} {s t : State} (hs : s.Inv) (h : execBranch cond rel s = .next t) :
    t.Inv := by
  unfold execBranch at h
  dsimp only at h
  split at h <;> (cases h; exact hs.congr rfl rfl rfl rfl)

theorem execJmp_inv {o : JumpOperand} {s t : State} (hs : s.Inv) (h : execJmp o s = .next t) : t.Inv := by
  cases h
  cases o with
  | abs w => exact hs.congr rfl rfl rfl rfl
  | ind w =>
    exact (memRead_inv _ (memRead_inv _ hs)).retireAt _ _

theorem exec_inv {i : Instr} {s t : State} (hs : s.Inv) (h : exec i s = .next t) : t.Inv := by
  cases i with
  | lda | ldx | ldy | and | ora | eor =>
    simp only [exec, execLda, execLdx, execLdy, execAnd, execOra, execEor] at h
    exact execRead_inv hs h fun _ _ hu => hu.congr rfl rfl rfl rfl
  | adc | sbc | cmp | cpx | cpy | bit => exact execRead_inv hs h fun _ _ hu => hu.congr rfl rfl rfl rfl
  | sta | stx | sty => exact execStore_inv hs h
  | asl | lsr | rol | ror => exact execShift_inv hs h fun _ _ => rfl
  | inc | dec => exact execRmw_inv hs h fun _ _ => rfl
  | bcc | bcs | beq | bne | bmi | bpl | bvc | bvs => exact execBranch_inv hs h
  | jmp => exact execJmp_inv hs h
  | jsr => cases h; exact (push16_inv _ hs).retireAt _ _
  | pha | php => cases h; exact (push8_inv _ hs).retire _ _
  | brk => cases h; exact (enterInterrupt_inv _ _ _ hs).addCycles _
  | rti => cases h; exact (returnFromInterrupt_inv hs).addCycles _
  | _ => cases h; exact hs.congr rfl rfl rfl rfl

/-! ### The invariant under dots -/

/-- The part of the picture unit's invariant that speaks of the sprite evaluator (rule R64). -/
structure SpriteEval.Inv (e : SpriteEval) : Prop where
  count_le : e.count ≤ 8
  slot_free : e.mode = .y ∨ e.mode = .rest → e.count < 8
  fetchCount_le : e.fetchCount ≤ 8

theorem Ppu.Inv.eval {p : Ppu} (h : p.Inv) : p.eval.Inv := ⟨h.count_le, h.slot_free, h.fetchCount_le⟩

theorem Ppu.Inv.setEval {p : Ppu} {e : SpriteEval} (h : p.Inv) (he : e.Inv) : Ppu.Inv { p with eval := e } :=
  { h with count_le := he.count_le, slot_free := he.slot_free, fetchCount_le := he.fetchCount_le }

theorem evalStart_inv {e : SpriteEval} (h : e.Inv) : (evalStart e).Inv :=
  ⟨Nat.zero_le _, fun _ => Nat.succ_pos _, h.fetchCount_le⟩

/-- `NextSprite` looks for a further sprite only while a slot is free (rule R478). -/
theorem nextSprite_inv {e : SpriteEval} (hcount : e.count ≤ 8) (hfetch : e.fetchCount ≤ 8) : (nextSprite e).Inv := by
  refine ⟨hcount, fun hmode => ?_, hfetch⟩
  have hne : e.count ≠ 8 := by
    intro h8
    simp [nextSprite, h8] at hmode
    split at hmode <;> simp at hmode
  exact lt_of_le_of_ne hcount hne

theorem evalRead_inv {p : Ppu} (h : p.Inv) : (evalRead p).Inv := h.setEval ⟨h.count_le, h.slot_free, h.fetchCount_le⟩

/-- Setting a status bit above bit 4 keeps a set vblank bit and bits 4:0 clear. -/
theorem Ppu.Inv.orStatus {p : Ppu} (mask : Byte) (h : p.Inv) (hmask : mask &&& 0x1F = 0) :
    Ppu.Inv { p with status := p.status ||| mask } :=
  { h with
    status_low := by rw [BitVec.and_or_distrib_right, h.status_low, hmask]; rfl
    eligible_vblank := fun he => by
      have hvblank := h.eligible_vblank he
      simp only [Ppu.vblank, bitOf] at *
      simp [hvblank] }

theorem secOamWrite_inv {k : Nat} {v : Byte} {p : Ppu} (h : p.Inv) (hk : k < 32) : (secOamWrite k v p).Inv :=
  { h with secOam_wf := secOamWrite_wf hk h.secOam_wf }

/-- The even evaluation cycle writes secondary OAM only into a slot that is free (rules R478, R482). -/
theorem evalAct_inv {p : Ppu} (h : p.Inv) : (evalAct p).Inv := by
  have hcount := h.count_le
  have hfetch := h.fetchCount_le
  unfold evalAct
  dsimp only
  split
  case h_1 hmode =>
    have hfree := h.slot_free (.inl hmode)
    split
    · exact (secOamWrite_inv h (by omega)).setEval ⟨hcount, fun _ => hfree, hfetch⟩
    · exact h.setEval (nextSprite_inv hcount hfetch)
  case h_2 hmode =>
    have hfree := h.slot_free (.inr hmode)
    have hbyte := p.eval.m.isLt
    have hwrite : (secOamWrite (4 * p.eval.count + p.eval.m.toNat) p.eval.latch p).Inv :=
      secOamWrite_inv h (by omega)
    split
    · exact hwrite.setEval ⟨hcount, fun _ => hfree, hfetch⟩
    · exact hwrite.setEval (nextSprite_inv hfree hfetch)
  case h_3 =>
    split
    · exact (h.orStatus 0x20 rfl).setEval ⟨hcount, by simp, hfetch⟩
    · refine h.setEval ⟨hcount, ?_, hfetch⟩
      dsimp only
      split <;> simp
  case h_4 => exact h

theorem evalDot_inv {p : Ppu} (h : p.Inv) : (evalDot p).Inv := by
  have hstart : (if p.cycle = 65 then { p with eval := evalStart p.eval } else p : Ppu).Inv := by
    split
    · exact h.setEval (evalStart_inv h.eval)
    · exact h
  unfold evalDot
  dsimp only
  split
  · exact evalRead_inv hstart
  · exact evalAct_inv hstart

theorem secOamClear_inv {p : Ppu} (h : p.Inv) (hc : p.cycle ≤ 64) : (secOamClear p).Inv := by
  unfold secOamClear
  split
  · exact secOamWrite_inv h (by omega)
  · exact h

theorem latchSprites_inv {p : Ppu} (h : p.Inv) : (latchSprites p).Inv :=
  { h with spriteBuf_wf := rfl, fetchCount_le := h.count_le }

theorem fetchSlot_inv {k : Nat} {p : Ppu} (h : p.Inv) : (fetchSlot k p).Inv := by
  have hbuf := fetchSlot_spriteBuf_wf (k := k) h.spriteBuf_wf
  obtain ⟨b, hb⟩ := fetchSlot_frame k p
  rw [hb] at hbuf ⊢
  exact { h with spriteBuf_wf := hbuf }

theorem spriteDot_inv {p : Ppu} (h : p.Inv) : (spriteDot p).Inv := by
  unfold spriteDot
  dsimp only
  split_ifs with hline hclear heval hlatch hfetch
  · exact h
  · exact secOamClear_inv h hclear.2
  · exact evalDot_inv h
  · exact latchSprites_inv h
  · exact fetchSlot_inv h
  · exact h

/-- A status byte with a bit more keeps a set vblank bit. -/
theorem vblank_of_status_or {p q : Ppu} {mask : Byte} (h : q.status = p.status ∨ q.status = p.status ||| mask)
    (hp : p.vblank = true) : q.vblank = true := by
  simp only [Ppu.vblank, bitOf] at *
  rcases h with h | h <;> simp [h, hp]

/-- A background or sprite dot never clears the vblank bit. -/
theorem spriteDot_backgroundDot_vblank {p : Ppu} (hp : p.vblank = true) :
    (spriteDot (backgroundDot p)).vblank = true := by
  obtain ⟨nt, at', lo, hi, q, v, hbg⟩ := backgroundDot_frame p
  obtain ⟨m, b, e, st, hsp, hst⟩ := spriteDot_frame (backgroundDot p)
  rw [hbg] at hst
  exact vblank_of_status_or (by rw [hsp]; exact hst) hp

theorem backgroundDot_inv {p : Ppu} (h : p.Inv) : (backgroundDot p).Inv := by
  obtain ⟨nt, at', lo, hi, q, v, hbg⟩ := backgroundDot_frame p
  rw [hbg]
  exact { h with }

theorem fineXDiscard_inv {s : State} (h : s.Inv) : (s.setPpu (fineXDiscard s.ppu)).Inv := by
  obtain ⟨q, hq⟩ := fineXDiscard_frame s.ppu
  rw [hq]
  exact h.setPpu { h.ppu with } id

theorem compositorDot_inv {s : State} (h : s.Inv) : (compositorDot s).Inv := by
  obtain ⟨q, st, ev, hframe, hst⟩ := compositorDot_frame s
  rw [hframe]
  have hppu : Ppu.Inv { s.ppu with status := st } := by
    rcases hst with rfl | rfl
    · exact h.ppu
    · exact h.ppu.orStatus 0x40 rfl
  exact ⟨h.cpuMem_wf, h.break_clear, fun hn => vblank_of_status_or hst (h.serviced_vblank hn), { hppu with }⟩

/-- The start of vblank sets the bit that eligibility stands for; the pre-render line clears the bit together with the
latch and eligibility (rules R408, R410). -/
theorem timingDot_inv {s : State} (h : s.Inv) : (timingDot s).Inv := by
  rcases timingDot_cases s with ⟨v, q, ht⟩ | ⟨ht, -, -⟩ | ⟨ht, -, -⟩ <;> rw [ht]
  · exact h.setPpu { h.ppu with } id
  · have hset : Ppu.vblank { s.ppu with status := s.ppu.status ||| 0x80 } = true := by simp [Ppu.vblank, bitOf]
    have hstatus := h.ppu.orStatus 0x80 rfl
    exact ⟨h.cpuMem_wf, h.break_clear, fun _ => hset, { hstatus with eligible_vblank := fun _ => hset }⟩
  · exact ⟨h.cpuMem_wf, h.break_clear, nofun, { h.ppu with status_low := BitVec.zero_and, eligible_vblank := nofun }⟩

theorem advanceDot_inv {p : Ppu} (h : p.Inv) : (advanceDot p).Inv := by
  have hpos := advanceDot_position h.cycle_le h.scanline_le
  have hline := h.scanline_le
  obtain ⟨c, sl, ef, hadv⟩ := advanceDot_frame p
  rw [hadv] at hpos ⊢
  exact { h with cycle_le := by omega, scanline_le := by omega }

theorem advanceDot_vblank (p : Ppu) : (advanceDot p).vblank = p.vblank := by
  obtain ⟨c, sl, ef, hadv⟩ := advanceDot_frame p
  rw [hadv]; rfl

theorem dotWork_inv {s : State} (h : s.Inv) : (dotWork s).Inv := by
  have hpixel := compositorDot_inv (fineXDiscard_inv h)
  exact timingDot_inv
    (hpixel.setPpu (spriteDot_inv (backgroundDot_inv hpixel.ppu)) spriteDot_backgroundDot_vblank)

theorem ppuTick_inv {s : State} (h : s.Inv) : (ppuTick s).Inv := by
  have hwork := dotWork_inv h
  exact hwork.setPpu (advanceDot_inv hwork.ppu) (advanceDot_vblank _).trans

/-! ### The invariant across a step -/

/-- The NMI latch is set only where the NMI was due, and so with the vblank bit set (rule R555). -/
theorem nmiEntry_inv {s : State} (h : s.Inv) (hdue : nmiCondition s = true) : (nmiEntry s).Inv := by
  have hvblank : s.ppu.vblank = true := by
    simp only [nmiCondition, Bool.and_eq_true] at hdue
    obtain ⟨⟨⟨hvblank, -⟩, -⟩, -⟩ := hdue
    exact hvblank
  have hentry := enterInterrupt_inv s.pc (statusByte s.flags) 0xFFFA h
  exact State.Inv.addCycles 7 ⟨hentry.cpuMem_wf, hentry.break_clear, fun _ => hvblank, hentry.ppu⟩

/-- Settles O11: the CPU part of a step and each of its dots keep the invariant. -/
theorem stepKeepsTheInvariant : Obligations.StepKeepsTheInvariant := by
  intro s t hs h
  obtain ⟨u, rfl, hcpu⟩ := step_cases h
  have hbegin : (beginStep s).Inv := hs.congr rfl rfl rfl rfl
  have hu : u.Inv := by
    rcases hcpu with ⟨hdue, rfl⟩ | ⟨-, i, -, hi⟩
    · exact nmiEntry_inv hbegin hdue
    · exact exec_inv hbegin hi
  exact finishStep_induction (P := State.Inv) (fun _ => ppuTick_inv) (hu.congr rfl rfl rfl rfl)

/-! ### The background queue -/

theorem SamePosition.onFetchLine {p q : Ppu} (h : SamePosition p q) : q.onFetchLine = p.onFetchLine := by
  unfold Ppu.onFetchLine; rw [h.scanline]

theorem SamePosition.onVisibleLine {p q : Ppu} (h : SamePosition p q) : q.onVisibleLine = p.onVisibleLine := by
  unfold Ppu.onVisibleLine; rw [h.scanline]

theorem fineXDiscard_samePosition (p : Ppu) : SamePosition p (fineXDiscard p) := by
  obtain ⟨q, h⟩ := fineXDiscard_frame p
  rw [h]; exact ⟨rfl, rfl, rfl⟩

theorem compositorDot_samePosition (s : State) : SamePosition s.ppu (compositorDot s).ppu := by
  obtain ⟨q, st, ev, h, -⟩ := compositorDot_frame s
  rw [h]; exact ⟨rfl, rfl, rfl⟩

theorem backgroundDot_samePosition (p : Ppu) : SamePosition p (backgroundDot p) := by
  obtain ⟨nt, at', lo, hi, q, v, h⟩ := backgroundDot_frame p
  rw [h]; exact ⟨rfl, rfl, rfl⟩

theorem spriteDot_samePosition (p : Ppu) : SamePosition p (spriteDot p) := by
  obtain ⟨m, b, e, st, h, -⟩ := spriteDot_frame p
  rw [h]; exact ⟨rfl, rfl, rfl⟩

/-- The fine-X discard only drops entries (rule R442). -/
theorem fineXDiscard_bgQueue_length_le (p : Ppu) : (fineXDiscard p).bgQueue.length ≤ p.bgQueue.length := by
  unfold fineXDiscard
  split
  · exact (List.drop_sublist _ _).length_le
  · exact le_rfl

/-- A visible pixel pops one entry (rules R450, R451). -/
theorem compositorDot_bgQueue_length (s : State) :
    (compositorDot s).ppu.bgQueue.length =
      if s.ppu.onVisibleLine ∧ 1 ≤ s.ppu.cycle ∧ s.ppu.cycle ≤ 256 then s.ppu.bgQueue.length - 1
      else s.ppu.bgQueue.length := by
  unfold compositorDot
  split
  · exact List.length_tail
  · rfl

/-- A tile fetch pushes eight entries (rules R441, R446). -/
theorem backgroundDot_bgQueue_length (p : Ppu) :
    (backgroundDot p).bgQueue.length =
      if p.onFetchLine && isTileFetchCycle p.cycle then p.bgQueue.length + 8 else p.bgQueue.length := by
  unfold backgroundDot
  split
  · exact List.length_append
  · rfl

theorem spriteDot_bgQueue (p : Ppu) : (spriteDot p).bgQueue = p.bgQueue := by
  obtain ⟨m, b, e, st, h, -⟩ := spriteDot_frame p
  rw [h]

theorem Ppu.whenRendering_bgQueue (p : Ppu) (v : VramAddr) : (p.whenRendering v).bgQueue = p.bgQueue := by
  unfold Ppu.whenRendering; split <;> rfl

/-- The end of a fetch line drops all entries; the timing engine leaves the queue alone elsewhere (rule R452). -/
theorem timingDot_bgQueue (s : State) :
    (timingDot s).ppu.bgQueue = if s.ppu.onFetchLine ∧ s.ppu.cycle = 256 then [] else s.ppu.bgQueue := by
  unfold timingDot
  dsimp only
  split_ifs
  · rfl
  · exact Ppu.whenRendering_bgQueue _ _
  · exact Ppu.whenRendering_bgQueue _ _
  · rfl
  · rfl
  · rfl

/-- The most entries the queue can hold after the work of a dot that begins in `p`: one is popped at a visible pixel, eight
are pushed at a fetch, all are dropped at the end of a fetch line (rules R441, R450, R452). -/
def Ppu.queueAfterDot (p : Ppu) : Nat :=
  if p.onFetchLine ∧ p.cycle = 256 then 0
  else
    (if p.onVisibleLine ∧ 1 ≤ p.cycle ∧ p.cycle ≤ 256 then p.bgQueue.length - 1 else p.bgQueue.length) +
      if p.onFetchLine && isTileFetchCycle p.cycle then 8 else 0

theorem dotWork_bgQueue_length_le (s : State) : (dotWork s).ppu.bgQueue.length ≤ s.ppu.queueAfterDot := by
  have hdrop := fineXDiscard_bgQueue_length_le s.ppu
  have hdropPos := fineXDiscard_samePosition s.ppu
  have hpop := compositorDot_bgQueue_length (s.setPpu (fineXDiscard s.ppu))
  have hpopPos := hdropPos.trans (compositorDot_samePosition (s.setPpu (fineXDiscard s.ppu)))
  have hpush := backgroundDot_bgQueue_length (compositorDot (s.setPpu (fineXDiscard s.ppu))).ppu
  have hpos := hpopPos.trans ((backgroundDot_samePosition _).trans (spriteDot_samePosition _))
  rw [State.setPpu_ppu, hdropPos.onVisibleLine, hdropPos.cycle] at hpop
  rw [hpopPos.onFetchLine, hpopPos.cycle] at hpush
  unfold dotWork Ppu.queueAfterDot
  rw [timingDot_bgQueue, State.setPpu_ppu, hpos.onFetchLine, hpos.cycle]
  split
  · exact le_rfl
  · rw [spriteDot_bgQueue, hpush, hpop]
    split_ifs <;> omega

/-- Within a line the queue after a dot's work is within the bound of the next dot: a visible line pops eight entries for
every eight it fetches, the pre-render line only fetches, and the other lines do neither. -/
theorem Ppu.queueAfterDot_le_queueBound {p : Ppu} (hc : p.cycle < 340)
    (hq : p.bgQueue.length ≤ queueBound p.scanline p.cycle) :
    p.queueAfterDot ≤ queueBound p.scanline (p.cycle + 1) := by
  have hkind : p.scanline ≤ 239 ∨ p.scanline = 261 ∨ ¬ (p.scanline ≤ 239 ∨ p.scanline = 261) := by omega
  rcases hkind with hvisible | hpreRender | hidle
  · grind [queueAfterDot, onFetchLine, onVisibleLine, isTileFetchCycle, queueBound]
  · grind [queueAfterDot, onFetchLine, onVisibleLine, isTileFetchCycle, queueBound]
  · have hnoFetch : p.onFetchLine = false := by simpa [onFetchLine] using hidle
    have hnoPixel : p.onVisibleLine = false := by simpa [onVisibleLine] using (not_or.mp hidle).1
    rw [queueBound, if_neg hidle] at hq ⊢
    simpa [queueAfterDot, hnoFetch, hnoPixel] using hq

/-- At the end of a line, after its last fetch, the queue holds at most the two tiles of the next line. -/
theorem Ppu.queueAfterDot_le_of_lineEnd {p : Ppu} (hc : 339 ≤ p.cycle)
    (hq : p.bgQueue.length ≤ queueBound p.scanline p.cycle) : p.queueAfterDot ≤ 16 := by
  have hbound : queueBound p.scanline p.cycle = 16 := by
    unfold queueBound; split_ifs <;> omega
  have hpixel : ¬ (p.onVisibleLine ∧ 1 ≤ p.cycle ∧ p.cycle ≤ 256) := by omega
  have hclear : ¬ (p.onFetchLine ∧ p.cycle = 256) := by omega
  have hfetch : isTileFetchCycle p.cycle = false := by simp [isTileFetchCycle]; omega
  simp only [Ppu.queueAfterDot, if_neg hclear, if_neg hpixel, hfetch, Bool.and_false, Bool.false_eq_true, if_false]
  omega

theorem ppuTick_queueBounded {s : State} (h : QueueBounded s) : QueueBounded (ppuTick s) := by
  obtain ⟨hc, hl, hq⟩ := h
  have hlen := dotWork_bgQueue_length_le s
  obtain ⟨p, nmi, ev, hwork, -, hpos, -⟩ := dotWork_frame s
  have hnext := advanceDot_position (p := p) (hpos.cycle ▸ hc) (hpos.scanline ▸ hl)
  obtain ⟨c, sl, ef, hadv⟩ := advanceDot_frame p
  unfold QueueBounded ppuTick
  rw [hwork] at hlen ⊢
  simp only [State.setPpu_ppu, hadv] at hlen hnext ⊢
  rw [hpos.cycle, hpos.scanline] at hnext
  rcases hnext with ⟨rfl, hlt, rfl⟩ | ⟨rfl, hend, hsl⟩
  · exact ⟨hlt, hl, hlen.trans (Ppu.queueAfterDot_le_queueBound hlt hq)⟩
  · have hstart : queueBound sl 0 = 16 := by unfold queueBound; simp
    exact ⟨Nat.zero_le _, hsl, hstart ▸ hlen.trans (Ppu.queueAfterDot_le_of_lineEnd hend hq)⟩

/-- Settles O12: the CPU part of a step leaves position and queue alone, and each dot keeps the bound. -/
theorem stepKeepsTheQueueBounded : Obligations.StepKeepsTheQueueBounded := by
  intro s t hs h
  obtain ⟨u, rfl, hframe, -, -⟩ := step_cpuPart h
  obtain ⟨hcycle, hscanline, -, -, -, -, -, hqueue, -⟩ := hframe.dots
  refine finishStep_induction (P := QueueBounded) (fun _ => ppuTick_queueBounded) ?_
  unfold QueueBounded at hs ⊢
  rw [State.setTotalCycle_ppu, hcycle, hscanline, hqueue]
  exact hs

end Sys2Proof.Machine

/-! The memory statements (spec/20_memory.md) about the CPU bus: what each range of addresses decodes to, one rule for a
read and one for a write of memory, the ports, the stores. -/

namespace Sys2Proof.Machine

/-! ### The ranges of the CPU address decoder -/

/-- A mask of the low `k` bits is the remainder modulo `2 ^ k`. -/
theorem toNat_and_lowMask (a : Word) {m : Word} (k : Nat) (hm : m.toNat = 2 ^ k - 1) :
    (a &&& m).toNat = a.toNat % 2 ^ k := by
  rw [BitVec.toNat_and, hm, Nat.and_two_pow_sub_one_eq_mod]

theorem isPort_iff (a : Word) : isPort a = true ↔ 0x2000 ≤ a.toNat ∧ a.toNat ≤ 0x4017 := by
  rw [isPort, Bool.and_eq_true, decide_eq_true_eq, decide_eq_true_eq]
  rfl

theorem isPort_eq_false_iff (a : Word) : isPort a = false ↔ a.toNat < 0x2000 ∨ 0x4018 ≤ a.toNat := by
  rw [← Bool.not_eq_true, isPort_iff]
  omega

theorem isPort_of_ram {a : Word} (h : a.toNat < 0x2000) : isPort a = false := (isPort_eq_false_iff a).mpr (.inl h)

theorem isPort_of_flat {a : Word} (h : 0x4018 ≤ a.toNat) : isPort a = false := (isPort_eq_false_iff a).mpr (.inr h)

/-- The four RAM windows fold onto 0x800 cells (rule R83). -/
theorem codeCell_of_ram {a : Word} (h : a.toNat < 0x2000) : codeCell a = a.toNat % 0x800 := by
  have hlt : a < 0x2000 := h
  rw [codeCell, if_pos hlt]
  exact toNat_and_lowMask a 11 rfl

theorem codeCell_of_flat {a : Word} (h : 0x4018 ≤ a.toNat) : codeCell a = a.toNat := by
  have hge : ¬ a < 0x2000 := by bv_omega
  rw [codeCell, if_neg hge]

theorem busTarget_of_ppuPort {a : Word} (hlo : 0x2000 ≤ a.toNat) (hhi : a.toNat ≤ 0x3FFF) :
    busTarget a = .ppuPort (a.setWidth 3) := by
  have hram : ¬ a < 0x2000 := by bv_omega
  have hppu : a < 0x4000 := by bv_omega
  rw [busTarget, if_neg hram, if_pos hppu]

theorem busTarget_of_absentPort {a : Word} (hlo : 0x4000 ≤ a.toNat) (hhi : a.toNat ≤ 0x4017)
    (hdma : a.toNat ≠ 0x4014) (hcontroller : a.toNat ≠ 0x4016) : busTarget a = .absentPort := by
  have hram : ¬ a < 0x2000 := by bv_omega
  have hppu : ¬ a < 0x4000 := by bv_omega
  have hdma' : ¬ a = 0x4014 := by bv_omega
  have hcontroller' : ¬ a = 0x4016 := by bv_omega
  have hio : a < 0x4018 := by bv_omega
  rw [busTarget, if_neg hram, if_neg hppu, if_neg hdma', if_neg hcontroller', if_pos hio]

theorem busTarget_oamDma : busTarget 0x4014 = .oamDma := rfl

theorem busTarget_controller : busTarget 0x4016 = .controller := rfl

/-! ### Reads and writes of memory -/

/-- Outside the ports a peek reads the address's cell (rules R83, R85). -/
theorem peek_of_not_port {a : Word} (s : State) (h : isPort a = false) : peek s a = s.cpuMem.read (codeCell a) := by
  rcases busTarget_of_not_port a h with ⟨hlt, ht⟩ | ⟨hge, ht⟩
  · simp only [peek, ht, codeCell, if_pos hlt]
  · simp only [peek, ht, codeCell_of_flat hge]

/-- Outside the ports a bus read is the same peek, with no side effect (rule R81). -/
theorem memRead_codeCell {a : Word} (s : State) (h : isPort a = false) :
    memRead a s = (s.cpuMem.read (codeCell a), s) := by
  rw [memRead_of_not_port a s h, peek_of_not_port s h]

/-- Outside the ports a bus write is a write of the address's cell under the policy of rule R86, which spares RAM. -/
theorem memWrite_of_not_port {a : Word} (v : Byte) (s : State) (h : isPort a = false) :
    memWrite a v s = .next (flatWrite (codeCell a) v s) := by
  rcases busTarget_of_not_port a h with ⟨hlt, ht⟩ | ⟨hge, ht⟩
  · have hram : ¬ (s.params.romWritePolicy = .discard ∧ 0x8000 ≤ (a &&& 0x07FF).toNat) := by
      have hcell := ramCell_lt a
      omega
    simp only [memWrite, ht, codeCell, if_pos hlt, flatWrite, if_neg hram]
  · simp only [memWrite, ht, codeCell_of_flat hge]

theorem flatWrite_read (cell : Nat) (v : Byte) (s : State) (k : Nat) :
    (flatWrite cell v s).cpuMem.read k =
      if k = cell ∧ ¬ (s.params.romWritePolicy = .discard ∧ 0x8000 ≤ k) then v else s.cpuMem.read k := by
  unfold flatWrite
  split
  next hdiscard =>
    have hkept : ¬ (k = cell ∧ ¬ (s.params.romWritePolicy = .discard ∧ 0x8000 ≤ k)) := by
      rintro ⟨rfl, hstore⟩
      exact hstore hdiscard
    rw [if_neg hkept]
  next hstore =>
    rw [State.setCpuMem_cpuMem, Memory.read_write]
    refine if_congr ⟨?_, And.left⟩ rfl rfl
    rintro rfl
    exact ⟨rfl, hstore⟩

/-- A write of memory changes the CPU array only. -/
theorem flatWrite_frame (cell : Nat) (v : Byte) (s : State) :
    flatWrite cell v s = { s with cpuMem := (flatWrite cell v s).cpuMem } := by
  unfold flatWrite
  split <;> rfl

/-- A read of memory after a write of memory: the byte written if the two addresses share a cell that takes it. -/
theorem memRead_flatWrite {b : Word} (cell : Nat) (v : Byte) (s : State) (h : isPort b = false) :
    memRead b (flatWrite cell v s) =
      (if codeCell b = cell ∧ ¬ (s.params.romWritePolicy = .discard ∧ 0x8000 ≤ codeCell b) then v
        else (memRead b s).1,
        flatWrite cell v s) := by
  rw [memRead_codeCell _ h, memRead_codeCell _ h, flatWrite_read]

/-- Settles O17: the address cell of a RAM window is the address modulo 0x800, below any cell of the ROM policy. -/
theorem ramWindowsShareTheirCells : Obligations.RamWindowsShareTheirCells := by
  intro s a v ha
  have hport := isPort_of_ram ha
  have hcell := codeCell_of_ram ha
  refine ⟨by rw [memRead_codeCell s hport, hcell], by rw [peek_of_not_port s hport, hcell],
    flatWrite (codeCell a) v s, memWrite_of_not_port v s hport, fun b hb hsame => ?_, fun b hb hother => ?_,
    fun b hb => ?_, flatWrite_frame _ _ _⟩
  · have hshared : codeCell b = codeCell a ∧ ¬ (s.params.romWritePolicy = .discard ∧ 0x8000 ≤ codeCell b) := by
      rw [codeCell_of_ram hb, hcell]
      omega
    rw [memRead_flatWrite _ _ _ (isPort_of_ram hb), if_pos hshared]
  · have hapart : codeCell b ≠ codeCell a := by rwa [codeCell_of_ram hb, hcell]
    rw [memRead_flatWrite _ _ _ (isPort_of_ram hb), if_neg fun h => hapart h.1]
  · have hapart : codeCell b ≠ codeCell a := by
      rw [codeCell_of_flat hb, hcell]
      omega
    rw [memRead_flatWrite _ _ _ (isPort_of_flat hb), if_neg fun h => hapart h.1]

/-- Settles O18: above the ports the cell of an address is the address itself. -/
theorem flatMemoryAboveThePorts : Obligations.FlatMemoryAboveThePorts := by
  intro s a v ha
  have hport := isPort_of_flat ha
  have hcell := codeCell_of_flat ha
  refine ⟨by rw [memRead_codeCell s hport, hcell], by rw [peek_of_not_port s hport, hcell],
    flatWrite a.toNat v s, by rw [memWrite_of_not_port v s hport, hcell], fun k => ?_, flatWrite_frame _ _ _⟩
  rw [flatWrite_read]
  refine if_congr (and_congr_right ?_) rfl rfl
  rintro rfl
  cases s.params.romWritePolicy <;> simp

/-! ### The ports -/

/-- The PPU port behind an address, by the address modulo 8 (rule R84). -/
theorem ppuPort_eq_iff (a : Word) (n : Nat) (hn : n < 8) : a.setWidth 3 = BitVec.ofNat 3 n ↔ a.toNat % 8 = n := by
  rw [← BitVec.toNat_inj, BitVec.toNat_setWidth, BitVec.toNat_ofNat, Nat.mod_eq_of_lt (show n < 2 ^ 3 from hn)]

/-- A port that is not PPUSTATUS, OAMDATA or PPUDATA answers the open value (rules R93, R97). -/
theorem ppuPortRead_of_writeOnly {port : BitVec 3} (addr : Word) (s : State) (hstatus : port ≠ 2) (hoam : port ≠ 4)
    (hdata : port ≠ 7) : ppuPortRead port addr s = (Config.ioReadValue addr, s) := by
  rw [ppuPortRead, if_neg hstatus, if_neg hoam, if_neg hdata]

/-- Settles O19. -/
theorem absentPortsHaveNoEffect : Obligations.AbsentPortsHaveNoEffect := by
  refine fun s a => ⟨fun hlo hhi hcontroller => ?_, fun hlo hhi hport => ?_, fun v hlo hhi hdma hcontroller => ?_,
    fun v hlo hhi hport => ?_⟩
  · by_cases hdma : a.toNat = 0x4014
    · have ha : a = 0x4014 := BitVec.eq_of_toNat_eq hdma
      rw [ha, memRead, busTarget_oamDma]
    · rw [memRead, busTarget_of_absentPort hlo hhi hdma hcontroller]
  · have hne (n : Nat) (hn : n < 8) (hmod : a.toNat % 8 ≠ n) : a.setWidth 3 ≠ BitVec.ofNat 3 n :=
      mt (ppuPort_eq_iff a n hn).mp hmod
    rw [memRead, busTarget_of_ppuPort hlo hhi]
    exact ppuPortRead_of_writeOnly a s (hne 2 (by omega) (by omega)) (hne 4 (by omega) (by omega))
      (hne 7 (by omega) (by omega))
  · rw [memWrite, busTarget_of_absentPort hlo hhi hdma hcontroller]
  · have hstatus : a.setWidth 3 = 2 := (ppuPort_eq_iff a 2 (by omega)).mpr hport
    rw [memWrite, busTarget_of_ppuPort hlo hhi, hstatus]
    rfl

/-- Settles O21. -/
theorem controllerPort : Obligations.ControllerPort := by
  refine fun s v => ⟨?_, ?_⟩
  · rw [memWrite, busTarget_controller]
    rfl
  · rw [memRead, busTarget_controller]
    rfl

/-! ### OAM DMA -/

/-- The OAM after `n` bytes of a DMA: the page's bytes below `n`, the old ones from `n` on (rule R94). -/
theorem oamCopy_read (s : State) (page : Byte) (n i : Nat) :
    (oamCopy s page n).read i =
      if i < n then peek s (mkWord page (BitVec.ofNat 8 i)) else s.ppu.oam.read i := by
  induction n with
  | zero => rfl
  | succ n ih =>
    rw [oamCopy, Memory.read_write, ih]
    by_cases hlast : i = n
    · rw [if_pos hlast, if_pos (by omega), hlast]
    · rw [if_neg hlast]
      exact if_congr (by omega) rfl rfl

theorem mkWord_toNat (hi lo : Byte) : (mkWord hi lo).toNat = hi.toNat * 256 + lo.toNat := by
  rw [mkWord, BitVec.toNat_append, ← Nat.shiftLeft_add_eq_or_of_lt lo.isLt, Nat.shiftLeft_eq]

/-- The source address of byte `i` of a DMA (rule R94). -/
theorem mkWord_page (page : Byte) {i : Nat} (hi : i < 256) :
    mkWord page (BitVec.ofNat 8 i) = BitVec.ofNat 16 (page.toNat * 256 + i) := by
  have hpage := page.isLt
  refine BitVec.eq_of_toNat_eq ?_
  rw [mkWord_toNat, BitVec.toNat_ofNat, BitVec.toNat_ofNat, Nat.mod_eq_of_lt (show i < 2 ^ 8 from hi),
    Nat.mod_eq_of_lt (by omega)]

theorem mkWord_not_port {page : Byte} (lo : Byte) (hpage : ¬ (0x20 ≤ page.toNat ∧ page.toNat ≤ 0x40)) :
    isPort (mkWord page lo) = false := by
  rw [isPort_eq_false_iff, mkWord_toNat]
  omega

theorem memWrite_oamDma_refused {page : Byte} (s : State) (hpage : 0x20 ≤ page.toNat ∧ page.toNat ≤ 0x40) :
    memWrite 0x4014 page s = .refused .dmaFromPort := by
  rw [memWrite, busTarget_oamDma]
  exact if_pos hpage

theorem memWrite_oamDma {page : Byte} (s : State) (hpage : ¬ (0x20 ≤ page.toNat ∧ page.toNat ≤ 0x40)) :
    memWrite 0x4014 page s = .next { s with
      ppu := { s.ppu with oam := oamCopy s page 256 }
      cycles := s.cycles + (if s.totalCycle % 2 = 0 then 513 else 514) } := by
  rw [memWrite, busTarget_oamDma]
  exact if_neg hpage

/-- Settles O20: no source page that is taken lies in the ports, so each byte copied is a bus read's. -/
theorem oamDmaCopiesThePage : Obligations.OamDmaCopiesThePage := by
  refine fun s page => ⟨memWrite_oamDma_refused s, fun hpage =>
    ⟨_, memWrite_oamDma s hpage, fun i hi => ?_, rfl, rfl⟩⟩
  rw [oamCopy_read, if_pos hi, ← mkWord_page page hi, memRead_of_not_port _ _ (mkWord_not_port _ hpage)]

/-! ### The stores -/

/-- A write to a port leaves the CPU array alone. -/
theorem memWrite_cpuMem_of_port {a : Word} {v : Byte} {s t : State} (hport : isPort a = true)
    (h : memWrite a v s = .next t) : t.cpuMem = s.cpuMem := by
  obtain ⟨hlo, hhi⟩ := (isPort_iff a).mp hport
  by_cases hppu : a.toNat ≤ 0x3FFF
  · rw [memWrite, busTarget_of_ppuPort hlo hppu] at h
    cases h
    rfl
  by_cases hdma : a.toNat = 0x4014
  · obtain rfl : a = 0x4014 := BitVec.eq_of_toNat_eq hdma
    by_cases hpage : 0x20 ≤ v.toNat ∧ v.toNat ≤ 0x40
    · rw [memWrite_oamDma_refused s hpage] at h
      cases h
    · rw [memWrite_oamDma s hpage] at h
      cases h
      rfl
  by_cases hcontroller : a.toNat = 0x4016
  · obtain rfl : a = 0x4016 := BitVec.eq_of_toNat_eq hcontroller
    rw [memWrite, busTarget_controller] at h
    cases h
    rfl
  · rw [memWrite, busTarget_of_absentPort (by omega) hhi hdma hcontroller] at h
    cases h
    rfl

/-- A completed bus write leaves the registers, the flags and `PC` alone. -/
theorem memWrite_cpu {a : Word} {v : Byte} {s t : State} (h : memWrite a v s = .next t) :
    SameRegisters s t ∧ t.flags = s.flags ∧ t.pc = s.pc := by
  rcases memWrite_cases a v s with ⟨hrefused, -⟩ | ⟨m, p, ev, n, hnext⟩
  · rw [hrefused] at h
    cases h
  · rw [hnext] at h
    cases h
    exact ⟨⟨rfl, rfl, rfl, rfl⟩, rfl, rfl⟩

theorem exec_store {m : MemOperand} {s : State} {i : Instr} {v : Byte}
    (hi : i = .sta m ∧ v = s.a ∨ i = .stx m ∧ v = s.x ∨ i = .sty m ∧ v = s.y) : exec i s = execStore m v s := by
  rcases hi with ⟨rfl, rfl⟩ | ⟨rfl, rfl⟩ | ⟨rfl, rfl⟩ <;> rfl

theorem execStore_of_memWrite {m : MemOperand} {v : Byte} {s u : State} (h : memWrite (effAddr m s).ea v s = .next u) :
    execStore m v s = .next (retire (memLength m) (writeCycles m) u) := by
  rw [execStore, h]
  rfl

/-- Settles O42: a store is one bus write of the register, and the end of the instruction. -/
theorem storesWriteTheirRegister : Obligations.StoresWriteTheirRegister := by
  intro m s i v hi
  rw [exec_store hi]
  refine ⟨fun ⟨hea, hpage⟩ => ?_, fun hok => ?_, fun hport => ?_⟩
  · rw [execStore, hea, memWrite_oamDma_refused s hpage]
    rfl
  · rcases execStore_cases m v s with ⟨-, hea, hlo, hhi⟩ | ⟨u, hwrite, hstore⟩
    · exact absurd ⟨hea, hlo, hhi⟩ hok
    · obtain ⟨hregs, hflags, hpc⟩ := memWrite_cpu hwrite
      refine ⟨_, u, hwrite, hstore, ?_, hregs, hflags, fun hport k => ?_⟩
      · rw [retire, hpc]
      · rw [retire_cpuMem, memWrite_cpuMem_of_port hport hwrite]
  · have hwrite := memWrite_of_not_port v s hport
    refine ⟨_, execStore_of_memWrite hwrite, ?_⟩
    have hread := flatWrite_read (codeCell (effAddr m s).ea) v s
    rw [flatWrite_frame]
    exact ⟨⟨rfl, rfl, rfl, rfl⟩, rfl, ⟨rfl, rfl, rfl, rfl, rfl⟩, ⟨rfl, rfl, rfl⟩, hread⟩

end Sys2Proof.Machine

/-! The memory statements about the PPU's address space (rules R107 to R112): the cell of an address in integers, from which
every clause about shared cells is arithmetic. -/

namespace Sys2Proof.Machine

/-! ### The PPU's address decoder in integers -/

/-- A bitwise AND, taken apart at bit `k`. -/
theorem and_eq_high_add_low (n m k : Nat) :
    n &&& m = 2 ^ k * (n / 2 ^ k &&& m / 2 ^ k) + (n % 2 ^ k &&& m % 2 ^ k) := by
  rw [← Nat.and_div_two_pow, ← Nat.and_mod_two_pow, Nat.div_add_mod]

/-- The cell of a nametable address or of its mirror, in integers (rules R110, R111). -/
def ntIndex (mirroring : Mirroring) (n : Nat) : Nat :=
  match mirroring with
  | .vertical => 0x2000 + n % 0x800
  | .horizontal => 0x2000 + n / 0x800 % 2 * 0x800 + n % 0x400

/-- The cell of a palette address, in integers (rule R112):
entry 0 of a sprite palette is that of a background palette. -/
def palIndex (n : Nat) : Nat :=
  0x3F00 + if n % 4 = 0 then n % 16 else n % 32

/-- `PpuCell` in integers (rules R107, R110). -/
def ppuIndex (mirroring : Mirroring) (addr : Nat) : Nat :=
  let n := addr % 0x4000
  if n < 0x2000 then n else if n < 0x3F00 then ntIndex mirroring n else palIndex n

theorem ntCell_toNat (mi : Mirroring) {a : Word} (hlo : 0x2000 ≤ a.toNat) (hhi : a.toNat < 0x3000) :
    (ntCell mi a).toNat = ntIndex mi a.toNat := by
  cases mi with
  | vertical =>
    have hhigh : a.toNat / 2 ^ 11 = 4 ∨ a.toNat / 2 ^ 11 = 5 := by omega
    have hmask : a.toNat / 2 ^ 11 &&& 0x37FF / 2 ^ 11 = 4 := by rcases hhigh with h | h <;> rw [h] <;> rfl
    have hlow : a.toNat % 2 ^ 11 &&& 0x37FF % 2 ^ 11 = a.toNat % 2 ^ 11 :=
      (Nat.and_two_pow_sub_one_eq_mod _ 11).trans (Nat.mod_mod _ _)
    have hand : (ntCell .vertical a).toNat = a.toNat &&& 0x37FF := BitVec.toNat_and _ _
    rw [hand, and_eq_high_add_low _ _ 11, hmask, hlow]
    rfl
  | horizontal =>
    have hhigh : a.toNat / 2 ^ 10 = 8 ∨ a.toNat / 2 ^ 10 = 9 ∨ a.toNat / 2 ^ 10 = 10 ∨ a.toNat / 2 ^ 10 = 11 := by
      omega
    have hmask : a.toNat / 2 ^ 10 &&& 0x3BFF / 2 ^ 10 = 8 + a.toNat / 0x800 % 2 * 2 := by
      have hhalf : a.toNat / 0x800 = a.toNat / 2 ^ 10 / 2 := by omega
      rw [hhalf]
      rcases hhigh with h | h | h | h <;> rw [h] <;> rfl
    have hlow : a.toNat % 2 ^ 10 &&& 0x3BFF % 2 ^ 10 = a.toNat % 2 ^ 10 :=
      (Nat.and_two_pow_sub_one_eq_mod _ 10).trans (Nat.mod_mod _ _)
    have hand : (ntCell .horizontal a).toNat = a.toNat &&& 0x3BFF := BitVec.toNat_and _ _
    rw [hand, and_eq_high_add_low _ _ 10, hmask, hlow, ntIndex]
    omega

/-- The mirror of the nametables at 0x3000 (rule R110). -/
theorem ntIndex_mirror (mi : Mirroring) {n : Nat} (h : 0x1000 ≤ n) : ntIndex mi (n - 0x1000) = ntIndex mi n := by
  cases mi <;> simp only [ntIndex] <;> omega

theorem palCell_low_bits (a : Word) : palCell a = palCell ((a.setWidth 5).setWidth 16) := by
  have hmask : a &&& 0x001F = (a.setWidth 5).setWidth 16 &&& 0x001F := by
    refine BitVec.eq_of_toNat_eq ?_
    rw [toNat_and_lowMask _ 5 rfl, toNat_and_lowMask _ 5 rfl, BitVec.toNat_setWidth, BitVec.toNat_setWidth]
    omega
  unfold palCell
  rw [hmask]

theorem palCell_toNat (a : Word) : (palCell a).toNat = palIndex a.toNat := by
  have hall : ∀ i : BitVec 5, (palCell (i.setWidth 16)).toNat = palIndex i.toNat := by decide
  rw [palCell_low_bits, hall, BitVec.toNat_setWidth, palIndex, palIndex]
  split_ifs <;> omega

theorem ppuCell_toNat (mi : Mirroring) (a : Word) : (ppuCell mi a).toNat = ppuIndex mi a.toNat := by
  have hand : (a &&& 0x3FFF).toNat = a.toNat % 0x4000 := toNat_and_lowMask a 14 rfl
  unfold ppuCell ppuIndex
  rw [← hand]
  generalize a &&& 0x3FFF = b
  dsimp only
  by_cases hpattern : b.toNat < 0x2000
  · rw [if_pos (show b < 0x2000 from hpattern), if_pos hpattern]
  rw [if_neg (show ¬ b < 0x2000 from hpattern), if_neg hpattern]
  by_cases hnt : b.toNat < 0x3000
  · rw [if_pos (show b < 0x3000 from hnt), if_pos (by omega), ntCell_toNat mi (by omega) hnt]
  rw [if_neg (show ¬ b < 0x3000 from hnt)]
  by_cases hmirror : b.toNat < 0x3F00
  · have hsub : (b - 0x1000).toNat = b.toNat - 0x1000 := by bv_omega
    rw [if_pos (show b < 0x3F00 from hmirror), if_pos hmirror, ntCell_toNat mi (by omega) (by omega), hsub,
      ntIndex_mirror mi (by omega)]
  · rw [if_neg (show ¬ b < 0x3F00 from hmirror), if_neg hmirror, palCell_toNat]

/-- Two addresses share a cell when their cells are one in integers. -/
theorem ppuCell_eq_iff (mi : Mirroring) (a b : Word) :
    ppuCell mi a = ppuCell mi b ↔ ppuIndex mi a.toNat = ppuIndex mi b.toNat := by
  rw [← BitVec.toNat_inj, ppuCell_toNat, ppuCell_toNat]

theorem Ppu.read_eq_of_ppuIndex {p : Ppu} {a b : Word}
    (h : ppuIndex p.mirroring a.toNat = ppuIndex p.mirroring b.toNat) :
    p.read a = p.read b := by
  rw [Ppu.read, Ppu.read, (ppuCell_eq_iff _ _ _).mpr h]

/-- A PPU read after a PPU write (rules R108, R109). -/
theorem Ppu.read_write (p : Ppu) (a b : Word) (v : Byte) :
    (p.write a v).read b = if ppuCell p.mirroring b = ppuCell p.mirroring a then v else p.read b := by
  have hread : (p.write a v).read b =
      if (ppuCell p.mirroring b).toNat = (ppuCell p.mirroring a).toNat then v else p.read b := Memory.read_write _ _ _ _
  rw [hread]
  exact if_congr BitVec.toNat_inj rfl rfl

/-! ### The cells of the three regions -/

theorem ppuIndex_pattern (mi : Mirroring) {n : Nat} (h : n < 0x2000) : ppuIndex mi n = n := by
  have hmod : n % 0x4000 = n := by omega
  rw [ppuIndex, hmod, if_pos h]

theorem ppuIndex_nametable (mi : Mirroring) {n : Nat} (hlo : 0x2000 ≤ n) (hhi : n < 0x3F00) :
    ppuIndex mi n = ntIndex mi n := by
  have hmod : n % 0x4000 = n := by omega
  rw [ppuIndex, hmod, if_neg (by omega), if_pos hhi]

theorem ppuIndex_palette (mi : Mirroring) {n : Nat} (hlo : 0x3F00 ≤ n) (hhi : n < 0x4000) :
    ppuIndex mi n = palIndex n := by
  have hmod : n % 0x4000 = n := by omega
  rw [ppuIndex, hmod, if_neg (by omega), if_neg (by omega)]

/-- The nametables' cells lie in 0x2000..0x2FFF, away from the pattern tables and the palette. -/
theorem ntIndex_bounds (mi : Mirroring) (n : Nat) : 0x2000 ≤ ntIndex mi n ∧ ntIndex mi n < 0x3000 := by
  cases mi <;> simp only [ntIndex] <;> omega

theorem palIndex_bounds (n : Nat) : 0x3F00 ≤ palIndex n ∧ palIndex n < 0x3F20 := by
  unfold palIndex
  split <;> omega

/-- An address above the pattern tables never reaches a cell of theirs. -/
theorem ppuIndex_ge (mi : Mirroring) {n : Nat} (hlo : 0x2000 ≤ n) (hhi : n < 0x4000) : 0x2000 ≤ ppuIndex mi n := by
  by_cases hnt : n < 0x3F00
  · rw [ppuIndex_nametable mi hlo hnt]
    exact (ntIndex_bounds mi n).1
  · rw [ppuIndex_palette mi (by omega) hhi]
    exact le_trans (by omega) (palIndex_bounds n).1

/-- Rule R110: below 0x2000 no two addresses share a cell. -/
theorem ppuIndex_eq_pattern_iff (mi : Mirroring) {m n : Nat} (hm : m < 0x2000) (hn : n < 0x4000) :
    ppuIndex mi m = ppuIndex mi n ↔ m = n := by
  rw [ppuIndex_pattern mi hm]
  by_cases hpattern : n < 0x2000
  · rw [ppuIndex_pattern mi hpattern]
  · have hge := ppuIndex_ge mi (by omega) hn
    omega

/-- Rule R111, vertical mirroring: the nametables at 0x2000 and 0x2800 are one memory, those at 0x2400 and 0x2C00
another. -/
theorem ntIndex_vertical_eq_iff (m n : Nat) : ntIndex .vertical m = ntIndex .vertical n ↔ m % 0x800 = n % 0x800 := by
  simp only [ntIndex]
  omega

/-- Rule R111, horizontal mirroring: the nametables at 0x2000 and 0x2400 are one memory, those at 0x2800 and 0x2C00
another. -/
theorem ntIndex_horizontal_eq_iff {m n : Nat} (hmlo : 0x2000 ≤ m) (hmhi : m < 0x3000) (hnlo : 0x2000 ≤ n)
    (hnhi : n < 0x3000) :
    ntIndex .horizontal m = ntIndex .horizontal n ↔ m / 0x800 = n / 0x800 ∧ m % 0x400 = n % 0x400 := by
  simp only [ntIndex]
  omega

/-- Rule R112: a palette address counts modulo 32, and entries 0, 4, 8, 12 of the two halves are one. -/
theorem palIndex_eq_iff (m n : Nat) :
    palIndex m = palIndex n ↔ m % 32 = n % 32 ∨ m % 4 = 0 ∧ n % 4 = 0 ∧ m % 16 = n % 16 := by
  unfold palIndex
  split_ifs <;> omega

/-- Settles O22: every clause is a comparison of cells in integers. -/
theorem ppuAddressMirrors : Obligations.PpuAddressMirrors := by
  intro p a
  refine ⟨?masked, ?pattern, ?mirror, ?vertical, ?horizontal, ?palette, ?backdrop, Ppu.read_write p a, ?patternApart,
    ?nametables, ?palettesApart, ?palettes⟩
  case masked =>
    have hand : (a &&& 0x3FFF).toNat = a.toNat % 0x4000 := toNat_and_lowMask a 14 rfl
    refine Ppu.read_eq_of_ppuIndex ?_
    rw [hand, ppuIndex, ppuIndex, Nat.mod_mod]
  case pattern =>
    intro h
    rw [Ppu.read, ppuCell_toNat, ppuIndex_pattern _ h]
  case mirror =>
    intro hlo hhi
    have hsub : (a - 0x1000).toNat = a.toNat - 0x1000 := by bv_omega
    refine Ppu.read_eq_of_ppuIndex ?_
    rw [hsub, ppuIndex_nametable _ (by omega) hhi, ppuIndex_nametable _ (by omega) (by omega), ntIndex_mirror _ (by omega)]
  case vertical =>
    intro hmi hlo hhi
    have hadd : (a + 0x800).toNat = a.toNat + 0x800 := by bv_omega
    refine Ppu.read_eq_of_ppuIndex ?_
    rw [hadd, hmi, ppuIndex_nametable _ (by omega) (by omega), ppuIndex_nametable _ hlo (by omega),
      ntIndex_vertical_eq_iff]
    omega
  case horizontal =>
    intro hmi hlo hhi hleft
    have hadd : (a + 0x400).toNat = a.toNat + 0x400 := by bv_omega
    refine Ppu.read_eq_of_ppuIndex ?_
    rw [hadd, hmi, ppuIndex_nametable _ (by omega) (by omega), ppuIndex_nametable _ hlo (by omega),
      ntIndex_horizontal_eq_iff (by omega) (by omega) hlo (by omega)]
    omega
  case palette =>
    intro hlo hhi
    have hadd : (a + 0x20).toNat = a.toNat + 0x20 := by bv_omega
    refine Ppu.read_eq_of_ppuIndex ?_
    rw [hadd, ppuIndex_palette _ (by omega) (by omega), ppuIndex_palette _ hlo (by omega), palIndex_eq_iff]
    omega
  case backdrop =>
    intro hlo hhi hfour
    have hadd : (a + 0x10).toNat = a.toNat + 0x10 := by bv_omega
    refine Ppu.read_eq_of_ppuIndex ?_
    rw [hadd, ppuIndex_palette _ (by omega) (by omega), ppuIndex_palette _ hlo (by omega), palIndex_eq_iff]
    omega
  case patternApart =>
    intro b ha hb
    rw [ppuCell_eq_iff, ppuIndex_eq_pattern_iff _ ha hb, BitVec.toNat_inj]
  case nametables =>
    intro b halo hahi hblo hbhi
    rw [ppuCell_eq_iff, ppuIndex_nametable _ halo (by omega), ppuIndex_nametable _ hblo (by omega)]
    refine ⟨fun hmi => ?_, fun hmi => ?_⟩ <;> rw [hmi]
    · exact ntIndex_vertical_eq_iff _ _
    · exact ntIndex_horizontal_eq_iff halo hahi hblo hbhi
  case palettesApart =>
    intro b halo hahi hblo hbhi
    have hnt := ntIndex_bounds p.mirroring a.toNat
    have hpal := palIndex_bounds b.toNat
    rw [Ne, ppuCell_eq_iff, ppuIndex_nametable _ halo hahi, ppuIndex_palette _ hblo hbhi]
    omega
  case palettes =>
    intro b halo hahi hblo hbhi
    rw [ppuCell_eq_iff, ppuIndex_palette _ halo hahi, ppuIndex_palette _ hblo hbhi, palIndex_eq_iff]

end Sys2Proof.Machine

/-! The memory statements about a whole step: the refused fetch, the two ways a step can stop, and what a run of dots leaves
alone. -/

namespace Sys2Proof.Machine

/-! ### The refused fetch -/

/-- The fetch is refused when one of the bytes of the opcode's format lies in a port (rule R106). -/
theorem fetchInstr_of_port {s : State} {k : Nat} (hport : codeInPort s k = true)
    (hk : k < (opcodeMap (codeByte s 0)).length) : fetchInstr s = .error .fetchFromPort := by
  unfold fetchInstr
  split
  next => rfl
  next hopcode =>
    have hpos : k ≠ 0 := by
      rintro rfl
      exact hopcode hport
    generalize opcodeMap (codeByte s 0) = shape at hk ⊢
    cases shape with
    | one i =>
      have hlen : k < 1 := hk
      omega
    | two f =>
      have hlen : k < 2 := hk
      obtain rfl : k = 1 := by omega
      exact if_pos hport
    | three f =>
      have hlen : k < 3 := hk
      refine if_pos ?_
      rw [Bool.or_eq_true]
      obtain rfl | rfl : k = 1 ∨ k = 2 := by omega
      · exact .inl hport
      · exact .inr hport

theorem Shape.length_pos (f : Shape) : 0 < f.length := by
  cases f <;> exact Nat.succ_pos _

/-- Settles O6: the start of a step leaves the condition of the NMI and the fetched bytes as they are. -/
theorem fetchFromPortIsRefused : Obligations.FetchFromPortIsRefused := by
  intro s k hnmi hport hk
  have hpos := Shape.length_pos (opcodeMap (peek s s.pc))
  have hopcode : codeByte (beginStep s) 0 = peek s s.pc := congrArg (peek s) (BitVec.add_zero s.pc)
  refine step_fetch_error s .fetchFromPort hnmi (fetchInstr_of_port (k := k) hport ?_)
  rw [hopcode]
  omega

/-! ### Why a step can stop -/

theorem execStore_refused {m : MemOperand} {v : Byte} {s : State} {r : Refusal} (h : execStore m v s = .refused r) :
    r = .dmaFromPort ∧ (effAddr m s).ea = 0x4014 := by
  rcases execStore_cases m v s with ⟨hrefused, hea, -⟩ | ⟨u, -, hnext⟩
  · rw [hrefused] at h
    cases h
    exact ⟨rfl, hea⟩
  · rw [hnext] at h
    cases h

theorem execRmw_refused {m : MemOperand} {op : ByteOp} {s : State} {r : Refusal} (h : execRmw m op s = .refused r) :
    r = .dmaFromPort ∧ (effAddr m s).ea = 0x4014 := by
  rcases execRmw_cases m op s with ⟨hrefused, hea, -⟩ | ⟨u, -, hnext⟩
  · rw [hrefused] at h
    cases h
    exact ⟨rfl, hea⟩
  · rw [hnext] at h
    cases h

theorem execShift_refused {o : ShiftOperand} {op : ByteOp} {s : State} {r : Refusal}
    (h : execShift o op s = .refused r) : r = .dmaFromPort ∧ ∃ m, o = .mem m ∧ (effAddr m s).ea = 0x4014 := by
  rcases execShift_cases o op s with ⟨hrefused, hmem⟩ | ⟨t, hnext⟩
  · rw [hrefused] at h
    cases h
    exact ⟨rfl, hmem⟩
  · rw [hnext] at h
    cases h

theorem execBranch_not_refused (cond : Bool) (rel : Byte) (s : State) (r : Refusal) :
    execBranch cond rel s ≠ .refused r := by
  unfold execBranch
  dsimp only
  split <;> nofun

/-- An instruction is refused only as the DMA from a port page, by a store or a read-modify-write to 0x4014 (rule R94). -/
theorem exec_refused {i : Instr} {s : State} {r : Refusal} (h : exec i s = .refused r) :
    r = .dmaFromPort ∧ ∃ m : MemOperand, (effAddr m s).ea = 0x4014 ∧
      (i = .sta m ∨ i = .stx m ∨ i = .sty m ∨ i = .inc m ∨ i = .dec m ∨
        i = .asl (.mem m) ∨ i = .lsr (.mem m) ∨ i = .rol (.mem m) ∨ i = .ror (.mem m)) := by
  cases i with
  | sta m | stx m | sty m =>
    obtain ⟨hr, hea⟩ := execStore_refused h
    exact ⟨hr, m, hea, by simp⟩
  | inc m | dec m =>
    obtain ⟨hr, hea⟩ := execRmw_refused h
    exact ⟨hr, m, hea, by simp⟩
  | asl o | lsr o | rol o | ror o =>
    obtain ⟨hr, m, rfl, hea⟩ := execShift_refused h
    exact ⟨hr, m, hea, by simp⟩
  | bcc | bcs | beq | bne | bmi | bpl | bvc | bvs => exact absurd h (execBranch_not_refused _ _ _ _)
  | _ => cases h

/-- A step that stops was refused in its fetch or in its instruction. -/
theorem step_refused {s : State} {r : Refusal} (h : step s = .refused r) :
    fetchInstr (beginStep s) = .error r ∨ ∃ i, exec i (beginStep s) = .refused r := by
  cases hnmi : nmiCondition (beginStep s) with
  | true =>
    rw [step_nmi s hnmi] at h
    cases h
  | false =>
    cases hfetch : fetchInstr (beginStep s) with
    | error e =>
      rw [step_fetch_error s e hnmi hfetch] at h
      cases h
      exact .inl rfl
    | ok i =>
      rw [step_fetch_ok s i hnmi hfetch] at h
      rcases andThen_refused h with hexec | ⟨u, -, hfinish⟩
      · exact .inr ⟨i, hexec⟩
      · cases hfinish

/-- Settles O15. -/
theorem stopsOnlyWhereTheSpecRefuses : Obligations.StopsOnlyWhereTheSpecRefuses := by
  refine ⟨fun s r h => ?_, fun s i r => exec_refused⟩
  rcases step_refused h with hfetch | ⟨i, hexec⟩
  · exact .inl (fetchInstr_error hfetch)
  · exact .inr (exec_refused hexec).1

/-! ### Runs of dots -/

/-- Settles O16: the frame of a run of dots, field by field. -/
theorem dotsLeaveCpuAndPortStateAlone : Obligations.DotsLeaveCpuAndPortStateAlone := by
  intro n s
  obtain ⟨p, nmi, ev, h, hports, hnmi⟩ := runDots_frame n s
  rw [h]
  exact ⟨⟨rfl, rfl, rfl, rfl⟩, rfl, rfl, rfl, rfl, rfl, rfl, hnmi, hports.mem, hports.oam, hports.t, hports.fineX,
    hports.w, hports.ctrl, hports.mask, hports.oamAddr, hports.readBuffer⟩

end Sys2Proof.Machine

/-! The encoding statements (spec/30_encoding.md), first those about the decoder and the encoder: a row of the opcode map and
the operand bytes of its format give one instruction, and the encoder names that row and those bytes. -/

namespace Sys2Proof.Machine

/-! ### The bytes of a word -/

theorem lo8_toNat (w : Word) : (lo8 w).toNat = w.toNat % 256 := BitVec.toNat_setWidth 8 w

theorem hi8_toNat (w : Word) : (hi8 w).toNat = w.toNat / 256 := by
  have hw := w.isLt
  rw [hi8, BitVec.toNat_setWidth, BitVec.toNat_ushiftRight, Nat.shiftRight_eq_div_pow]
  omega

theorem mkWord_hi8_lo8 (w : Word) : mkWord (hi8 w) (lo8 w) = w := by
  refine BitVec.eq_of_toNat_eq ?_
  rw [mkWord_toNat, hi8_toNat, lo8_toNat]
  omega

theorem lo8_mkWord (hi lo : Byte) : lo8 (mkWord hi lo) = lo := by
  refine BitVec.eq_of_toNat_eq ?_
  rw [lo8_toNat, mkWord_toNat]
  omega

theorem hi8_mkWord (hi lo : Byte) : hi8 (mkWord hi lo) = hi := by
  refine BitVec.eq_of_toNat_eq ?_
  rw [hi8_toNat, mkWord_toNat]
  omega

end Sys2Proof.Machine

namespace Sys2Proof

open Machine

/-! ### The rows of the opcode map -/

/-- The instruction a row of the opcode map makes of the operand bytes of its format (rule R142). -/
inductive Shape.Completes : Shape → List Byte → Instr → Prop
  | one (i : Instr) : Completes (.one i) [] i
  | two (f : Byte → Instr) (b : Byte) : Completes (.two f) [b] (f b)
  | three (f : Word → Instr) (w : Word) : Completes (.three f) [lo8 w, hi8 w] (f w)

/-- The instruction of a one-byte row. -/
def Shape.oneByte? : Shape → Option Instr
  | .one i => some i
  | .two _ | .three _ => none

theorem Shape.oneByte?_eq_some {shape : Shape} {i : Instr} (h : shape.oneByte? = some i) : shape = .one i := by
  cases shape with
  | one j =>
    cases h
    rfl
  | two f | three f => cases h

/-- The rows of the bytes rule R172 lists. -/
theorem opcodeMap_unknown {op : Byte} (h : op ∈ unknownOpcodes) : opcodeMap op = .one (.unknown op) := by
  have hall : ∀ q ∈ unknownOpcodes, (opcodeMap q).oneByte? = some (.unknown q) := by decide +kernel
  exact Shape.oneByte?_eq_some (hall op h)

/-- No other row is UNKNOWN (rule R173). -/
theorem mem_unknownOpcodes {op : Byte} (h : opcodeMap op = .one (.unknown op)) : op ∈ unknownOpcodes := by
  have hall : ∀ q : Byte, (opcodeMap q).oneByte? = some (.unknown q) → q ∈ unknownOpcodes := by decide +kernel
  exact hall op (congrArg Shape.oneByte? h)

/-- The 152 arms of the opcode map: what an arm makes of operand bytes is well-formed, and the encoder gives back the arm's
opcode byte and those bytes. The last arm, UNKNOWN, is the one that keeps the opcode byte as it was given. -/
theorem Shape.Completes.encoded {op : Byte} {shape : Shape} {operand : List Byte} {i : Instr}
    (h : shape.Completes operand i) (hs : opcodeMap op = shape) :
    i.wf = true ∧ i.opcode = some op ∧ i.operandBytes = operand := by
  have hunknown : shape = .one (.unknown op) → op ∈ unknownOpcodes := fun h => mem_unknownOpcodes (hs.trans h)
  have hop : op = BitVec.ofNat 8 op.toNat := (BitVec.ofNat_toNat 8 op).symm
  unfold opcodeMap at hs
  generalize op.toNat = n at hs hop
  split at hs <;> subst hs <;> cases h
  case h_152 => exact ⟨List.contains_iff_mem.mpr (hunknown rfl), rfl, rfl⟩
  all_goals exact ⟨rfl, congrArg some hop.symm, rfl⟩

/-- The row of a well-formed instruction's opcode byte makes the instruction of its operand bytes (rules R141, R142, R171). -/
theorem Instr.completes_of_wf {i : Instr} (h : i.wf = true) :
    ∃ op, i.opcode = some op ∧ (opcodeMap op).Completes i.operandBytes i := by
  cases i with
  | lda o | adc o | sbc o | and o | ora o | eor o | cmp o =>
    cases o with
    | imm => exact ⟨_, rfl, .two _ _⟩
    | mem m =>
      cases m with
      | zp | zpx | izx | izy => exact ⟨_, rfl, .two _ _⟩
      | abs | abx | aby => exact ⟨_, rfl, .three _ _⟩
      | zpy => cases h
  | sta m =>
    cases m with
    | zp | zpx | izx | izy => exact ⟨_, rfl, .two _ _⟩
    | abs | abx | aby => exact ⟨_, rfl, .three _ _⟩
    | zpy => cases h
  | ldx o =>
    cases o with
    | imm => exact ⟨_, rfl, .two _ _⟩
    | mem m =>
      cases m with
      | zp | zpy => exact ⟨_, rfl, .two _ _⟩
      | abs | aby => exact ⟨_, rfl, .three _ _⟩
      | zpx | abx | izx | izy => cases h
  | ldy o =>
    cases o with
    | imm => exact ⟨_, rfl, .two _ _⟩
    | mem m =>
      cases m with
      | zp | zpx => exact ⟨_, rfl, .two _ _⟩
      | abs | abx => exact ⟨_, rfl, .three _ _⟩
      | zpy | aby | izx | izy => cases h
  | cpx o | cpy o =>
    cases o with
    | imm => exact ⟨_, rfl, .two _ _⟩
    | mem m =>
      cases m with
      | zp => exact ⟨_, rfl, .two _ _⟩
      | abs => exact ⟨_, rfl, .three _ _⟩
      | zpx | zpy | abx | aby | izx | izy => cases h
  | bit m =>
    cases m with
    | zp => exact ⟨_, rfl, .two _ _⟩
    | abs => exact ⟨_, rfl, .three _ _⟩
    | zpx | zpy | abx | aby | izx | izy => cases h
  | stx m =>
    cases m with
    | zp | zpy => exact ⟨_, rfl, .two _ _⟩
    | abs => exact ⟨_, rfl, .three _ _⟩
    | zpx | abx | aby | izx | izy => cases h
  | sty m =>
    cases m with
    | zp | zpx => exact ⟨_, rfl, .two _ _⟩
    | abs => exact ⟨_, rfl, .three _ _⟩
    | zpy | abx | aby | izx | izy => cases h
  | asl o | lsr o | rol o | ror o =>
    cases o with
    | acc => exact ⟨_, rfl, .one _⟩
    | mem m =>
      cases m with
      | zp | zpx => exact ⟨_, rfl, .two _ _⟩
      | abs | abx => exact ⟨_, rfl, .three _ _⟩
      | zpy | aby | izx | izy => cases h
  | inc m | dec m =>
    cases m with
    | zp | zpx => exact ⟨_, rfl, .two _ _⟩
    | abs | abx => exact ⟨_, rfl, .three _ _⟩
    | zpy | aby | izx | izy => cases h
  | bcc | bcs | beq | bne | bmi | bpl | bvc | bvs => exact ⟨_, rfl, .two _ _⟩
  | jmp o => cases o with | abs | ind => exact ⟨_, rfl, .three _ _⟩
  | jsr => exact ⟨_, rfl, .three _ _⟩
  | tax | tay | txa | tya | tsx | txs | inx | iny | dex | dey | rts => exact ⟨_, rfl, .one _⟩
  | pha | php | pla | plp | clc | sec | cli | sei | cld | sed | clv | nop | brk | rti => exact ⟨_, rfl, .one _⟩
  | unknown op =>
    refine ⟨op, rfl, ?_⟩
    rw [opcodeMap_unknown (List.contains_iff_mem.mp h)]
    exact .one _

/-! ### Decoding -/

/-- The decoder reads a row's operand bytes, whatever follows them (rules R140, R142). -/
theorem Shape.Completes.decode_eq {op : Byte} {operand : List Byte} {i : Instr}
    (h : (opcodeMap op).Completes operand i) (rest : List Byte) :
    decode (op :: (operand ++ rest)) = .ok (i, rest) := by
  generalize hs : opcodeMap op = shape at h
  cases h with
  | one | two => simp only [decode, hs, List.nil_append, List.cons_append]
  | three f w =>
    have hword : hi8 w ++ lo8 w = w := mkWord_hi8_lo8 w
    simp only [decode, hs, List.nil_append, List.cons_append, hword]

/-- What the decoder answers is the opcode byte's row, completed by the bytes it consumed. -/
theorem completes_of_decode {op : Byte} {bytes rest : List Byte} {i : Instr} (h : decode (op :: bytes) = .ok (i, rest)) :
    ∃ operand, (opcodeMap op).Completes operand i ∧ bytes = operand ++ rest := by
  simp only [decode] at h
  generalize opcodeMap op = shape at h
  split at h <;> cases h
  · exact ⟨[], .one _, rfl⟩
  · exact ⟨_, .two _ _, rfl⟩
  next b1 b2 =>
    refine ⟨_, .three _ (mkWord b2 b1), ?_⟩
    rw [hi8_mkWord, lo8_mkWord]
    rfl

/-- Settles O1: the encoder's bytes are the opcode byte of a row and the operand bytes that complete it. -/
theorem decodeOfEncodeIsIdentity : Obligations.DecodeOfEncodeIsIdentity := by
  intro i rest h
  obtain ⟨op, hop, hrow⟩ := Instr.completes_of_wf h
  rw [encode, hop]
  exact hrow.decode_eq rest

/-- Settles O2: the bytes consumed complete a row, whose instruction encodes to them. -/
theorem encodeOfDecodeIsIdentity : Obligations.EncodeOfDecodeIsIdentity := by
  intro bytes rest i h
  cases bytes with
  | nil => cases h
  | cons op bytes =>
    obtain ⟨operand, hrow, rfl⟩ := completes_of_decode h
    obtain ⟨hwf, hop, hoperand⟩ := hrow.encoded rfl
    rw [encode, hop, hoperand]
    exact ⟨hwf, rfl⟩

/-- An opcode byte followed by two bytes or more always decodes (rule R173). -/
theorem decode_total (op b1 b2 : Byte) (rest : List Byte) :
    ∃ (i : Instr) (rest' : List Byte), decode (op :: b1 :: b2 :: rest) = .ok (i, rest') := by
  cases hs : opcodeMap op with
  | one | two | three =>
    simp only [decode, hs]
    exact ⟨_, _, rfl⟩

/-- Settles O3: the opcode byte of a decoded UNKNOWN is its own, and well-formed means listed. -/
theorem everyOpcodeByteDecodes : Obligations.EveryOpcodeByteDecodes := by
  refine ⟨decode_total, fun op rest rest' i h => ⟨?_, fun hop => ?_⟩, rfl, by decide +kernel⟩
  · rintro ⟨q, rfl⟩
    obtain ⟨operand, hrow, -⟩ := completes_of_decode h
    obtain ⟨hwf, hq, -⟩ := hrow.encoded rfl
    cases hq
    exact List.contains_iff_mem.mp hwf
  · obtain ⟨operand, hrow, -⟩ := completes_of_decode h
    rw [opcodeMap_unknown hop] at hrow
    cases hrow
    exact ⟨op, rfl⟩

end Sys2Proof

/-! The encoding statements about a step: the instruction the fetch reads is the one the decoder makes of the bytes at `PC`. -/

namespace Sys2Proof.Machine

/-- The fetch answers what the opcode's row makes of the operand bytes at `PC`, when none of these bytes lies in a port (rules
R106, R140, R150). -/
theorem fetchInstr_of_completes {s : State} {operand rest : List Byte} {i : Instr}
    (hrow : (opcodeMap (codeByte s 0)).Completes operand i)
    (hbytes : [codeByte s 1, codeByte s 2] = operand ++ rest)
    (hport : ∀ k ≤ operand.length, codeInPort s k = false) : fetchInstr s = .ok i := by
  have hopcode : ¬ codeInPort s 0 = true := Bool.eq_false_iff.mp (hport 0 (Nat.zero_le _))
  rw [fetchInstr, if_neg hopcode]
  generalize opcodeMap (codeByte s 0) = shape at hrow
  cases hrow with
  | one => rfl
  | two f b =>
    obtain ⟨rfl, -⟩ := List.cons.inj hbytes
    simp only [hport 1 le_rfl, Bool.false_eq_true, if_false]
  | three f w =>
    obtain ⟨hlo, htail⟩ := List.cons.inj hbytes
    obtain ⟨hhi, -⟩ := List.cons.inj htail
    have h1 := hport 1 (by decide : 1 ≤ 2)
    have h2 := hport 2 le_rfl
    simp only [h1, h2, hlo, hhi, mkWord_hi8_lo8, Bool.or_self, Bool.false_eq_true, if_false]

/-- Settles O5: the start of a step leaves the bytes at `PC` as they are, so the fetch reads the decoded instruction. -/
theorem stepRunsTheDecodedInstruction : Obligations.StepRunsTheDecodedInstruction := by
  intro s i rest hnmi hdecode hport
  have hpc : s.pc + BitVec.ofNat 16 0 = s.pc := BitVec.add_zero s.pc
  obtain ⟨operand, hrow, hbytes⟩ := completes_of_decode hdecode
  have hlength : 2 = operand.length + rest.length := by
    rw [← List.length_append, ← hbytes]
    rfl
  refine step_fetch_ok s i hnmi (fetchInstr_of_completes (operand := operand) (rest := rest) ?_ hbytes fun k hk => ?_)
  · rw [codeByte, beginStep, hpc]
    exact hrow
  · exact hport k (by omega)

/-- Settles O60: an UNKNOWN opcode byte is an instruction of its own, so only that byte's address must be outside the ports. -/
theorem unknownOpcodeStep : Obligations.UnknownOpcodeStep := by
  refine ⟨fun s op => rfl, fun s hnmi hport hop => ?_⟩
  have hdecode : decode [peek s s.pc, peek s (s.pc + 1), peek s (s.pc + 2)] =
      .ok (.unknown (peek s s.pc), [peek s (s.pc + 1), peek s (s.pc + 2)]) :=
    decodeOfEncodeIsIdentity (.unknown (peek s s.pc)) _ (List.contains_iff_mem.mpr hop)
  rw [stepRunsTheDecodedInstruction s _ _ hnmi hdecode fun k hk => ?_]
  · rfl
  · obtain rfl : k = 0 := by
      have hk' : k + 2 < 3 := hk
      omega
    rwa [BitVec.add_zero]

end Sys2Proof.Machine

/-! The encoding statements about operands: the effective addresses in integers, the cycles of the three classes of access, and
the instructions that only read an operand: the loads, BIT and JMP. -/

namespace Sys2Proof.Machine

/-! ### Effective addresses -/

theorem zext16_toNat (b : Byte) : (zext16 b).toNat = b.toNat := by
  have hb := b.isLt
  rw [zext16, BitVec.toNat_setWidth]
  omega

/-- Page 0 is internal RAM, below the fold of its mirrors (rule R83). -/
theorem peek_zext16 (s : State) (b : Byte) : peek s (zext16 b) = s.cpuMem.read b.toNat := by
  have hb := b.isLt
  have hram : (zext16 b).toNat < 0x2000 := by
    rw [zext16_toNat]
    omega
  rw [peek_of_not_port s (isPort_of_ram hram), codeCell_of_ram hram, zext16_toNat, Nat.mod_eq_of_lt (by omega)]

/-- A pointer of page 0, its high byte at the next address modulo 256 (rules R158, R159). -/
theorem zeroPagePointer_toNat (s : State) (p : Byte) :
    (zeroPagePointer s p).toNat =
      (s.cpuMem.read ((p.toNat + 1) % 256)).toNat * 256 + (s.cpuMem.read p.toNat).toNat := by
  have hnext : (p + 1).toNat = (p.toNat + 1) % 256 := BitVec.toNat_add p 1
  rw [zeroPagePointer, mkWord_toNat, peek_zext16, peek_zext16, hnext]

theorem indexed_ea_toNat (base : Word) (index : Byte) :
    (indexed base index).ea.toNat = (base.toNat + index.toNat) % 65536 := by
  rw [indexed, BitVec.toNat_add, zext16_toNat]

/-- The page-cross test compares the high bytes of the base and of the sum (rule R150). -/
theorem indexed_crossed_iff (base : Word) (index : Byte) :
    (indexed base index).crossed = true ↔ base.toNat / 256 ≠ (base.toNat + index.toNat) % 65536 / 256 := by
  rw [← indexed_ea_toNat, ← hi8_toNat, ← hi8_toNat, Ne, BitVec.toNat_inj]
  exact decide_eq_true_iff

/-- Settles O39: the two sums modulo 256, the two pointers of page 0 and the two indexed sums modulo 65536. -/
theorem effectiveAddresses : Obligations.EffectiveAddresses := by
  intro s b w
  have hzpx (x : Byte) : (zext16 (b + x)).toNat = (b.toNat + x.toNat) % 256 := by
    rw [zext16_toNat, BitVec.toNat_add]
  refine ⟨⟨zext16_toNat b, rfl⟩, ⟨hzpx s.x, rfl⟩, ⟨hzpx s.y, rfl⟩, ⟨rfl, rfl⟩,
    ⟨indexed_ea_toNat w s.x, indexed_crossed_iff w s.x⟩, ⟨indexed_ea_toNat w s.y, indexed_crossed_iff w s.y⟩,
    ⟨?_, rfl⟩, fun base hbase => ?_⟩
  · have hpointer := zeroPagePointer_toNat s (b + s.x)
    rwa [BitVec.toNat_add, Nat.mod_add_mod] at hpointer
  · rw [hbase, ← zeroPagePointer_toNat]
    exact ⟨indexed_ea_toNat _ s.y, indexed_crossed_iff _ s.y⟩

/-! ### Instructions that read an operand -/

/-- What the effect of a class R instruction may write: `A`, `X`, `Y` and the flags. -/
def WritesRegistersOnly (effect : Byte → State → State) : Prop :=
  ∀ (v : Byte) (u : State), ∃ (a x y : Byte) (f : Flags), effect v u = { u with a := a, x := x, y := y, flags := f }

/-- What a class R instruction leaves of the state, once the operand is read (rules R150, R200). -/
theorem execRead_frame (o : ReadOperand) {effect : Byte → State → State} (he : WritesRegistersOnly effect) (s : State) :
    let r := loadOperand o s
    let t := retire (readLength o) (readCost o s) (effect r.1 r.2)
    t.sp = s.sp ∧ Advanced (readLength o) (readCost o s) s t ∧ SameMemory s t ∧ SameDevices r.2 t := by
  intro r t
  obtain ⟨a, x, y, f, h⟩ := he r.1 r.2
  have ht : t = retire (readLength o) (readCost o s) { r.2 with a := a, x := x, y := y, flags := f } :=
    congrArg (retire _ _) h
  rw [ht]
  exact ⟨loadOperand_sp o s, ⟨congrArg (· + _) (loadOperand_pc o s), congrArg (· + _) (loadOperand_cycles o s),
    loadOperand_totalCycle o s⟩, fun k => congrArg (Memory.read · k) (loadOperand_cpuMem o s), rfl, rfl, rfl, rfl, rfl⟩

/-- The flags of a load: Z and N of the operand (rule R38). -/
theorem loadOperand_setNZ (o : ReadOperand) (v : Byte) (s : State) :
    (loadOperand o s).2.flags.setNZ v = { s.flags with z := decide (v.toNat = 0), n := decide (0x80 ≤ v.toNat) } := by
  rw [Flags.setNZ_eq, loadOperand_flags]

/-- Settles O41: each load is the class R instruction whose effect is one register and `SetNZ`. -/
theorem loadsWriteTheirRegister : Obligations.LoadsWriteTheirRegister := by
  refine ⟨fun _ _ => rfl, fun _ _ => ⟨rfl, rfl⟩, fun o s => ?_⟩
  intro m r
  have ha := execRead_frame o (effect := fun v t => setNZ v (t.setA v)) (fun _ _ => ⟨_, _, _, _, rfl⟩) s
  have hx := execRead_frame o (effect := fun v t => setNZ v (t.setX v)) (fun _ _ => ⟨_, _, _, _, rfl⟩) s
  have hy := execRead_frame o (effect := fun v t => setNZ v (t.setY v)) (fun _ _ => ⟨_, _, _, _, rfl⟩) s
  exact ⟨⟨_, rfl, rfl, loadOperand_x o s, loadOperand_y o s, ha.1, loadOperand_setNZ o m s, ha.2⟩,
    ⟨_, rfl, loadOperand_a o s, rfl, loadOperand_y o s, hx.1, loadOperand_setNZ o m s, hx.2⟩,
    ⟨_, rfl, loadOperand_a o s, loadOperand_x o s, rfl, hy.1, loadOperand_setNZ o m s, hy.2⟩⟩

/-- Settles O48: BIT is the class R instruction whose effect is three flags, computed from `A` as it was before the read. -/
theorem bitTest : Obligations.BitTest := by
  refine ⟨fun _ _ => rfl, fun m s => ?_⟩
  obtain ⟨hsp, hframe⟩ := execRead_frame (.mem m) (effect := bitState) (fun _ _ => ⟨_, _, _, _, rfl⟩) s
  refine ⟨_, execRead_eq (.mem m) bitState s, ?_, ⟨loadOperand_a _ s, loadOperand_x _ s, loadOperand_y _ s, hsp⟩, hframe⟩
  rw [retire_flags, bitState, State.setFlags_flags, loadOperand_flags, loadOperand_a]
  rfl

/-! ### Cycles by mode -/

theorem hi8_eq_iff (v w : Word) : hi8 v = hi8 w ↔ v >>> 8 = w >>> 8 := by
  rw [← BitVec.toNat_inj, ← BitVec.toNat_inj, hi8_toNat, hi8_toNat, BitVec.toNat_ushiftRight, BitVec.toNat_ushiftRight,
    Nat.shiftRight_eq_div_pow, Nat.shiftRight_eq_div_pow]

/-- The cycles of an indexed read: one more when the sum lies on another page than the base (rule R164). -/
theorem add_indexed_crossed (n : Nat) (base : Word) (index : Byte) :
    n + (indexed base index).crossed.toNat = if (base + index.setWidth 16) >>> 8 = base >>> 8 then n else n + 1 := by
  have hcrossed : (indexed base index).crossed = decide (hi8 base ≠ hi8 (base + index.setWidth 16)) := rfl
  split
  next hsame =>
    have hhi := (hi8_eq_iff _ _).mpr hsame.symm
    rw [hcrossed, decide_eq_false (not_not.mpr hhi)]
    rfl
  next hother =>
    have hhi := mt (hi8_eq_iff _ _).mp (Ne.symm hother)
    rw [hcrossed, decide_eq_true hhi]
    rfl

/-- A class R instruction in mode IZY costs one more when it crosses a page (rules R159, R164). -/
theorem readCost_izy (b : Byte) (s : State) :
    readCost (.mem (.izy b)) s = if (effAddr (.izy b) s).crossed then 6 else 5 := by
  rw [readCost, memReadCost]
  cases (effAddr (.izy b) s).crossed <;> rfl

theorem eq_of_busTarget_oamDma {a : Word} (h : busTarget a = .oamDma) : a = 0x4014 := by
  unfold busTarget at h
  split_ifs at h with _ _ ha
  exact ha

/-- A bus write that triggers no DMA adds no cycles (rules R82, R95). -/
theorem memWrite_cycles_of_ne {a : Word} {v : Byte} {s t : State} (ha : a ≠ 0x4014) (h : memWrite a v s = .next t) :
    t.cycles = s.cycles := by
  unfold memWrite at h
  split at h
  case h_3 hdma => exact absurd (eq_of_busTarget_oamDma hdma) ha
  case h_6 =>
    cases h
    rw [flatWrite_frame]
  all_goals
    cases h
    rfl

/-- A store costs the cycles of its mode and no penalty, unless it triggers a DMA (rules R95, R164, R171). -/
theorem execStore_cycles_of_ne {m : MemOperand} (v : Byte) {s : State} (ha : (effAddr m s).ea ≠ 0x4014) :
    ∃ t, execStore m v s = .next t ∧ t.cycles = s.cycles + writeCycles m := by
  rcases execStore_cases m v s with ⟨-, hdma, -⟩ | ⟨u, hwrite, hnext⟩
  · exact absurd hdma ha
  · exact ⟨_, hnext, by rw [retire_cycles, memWrite_cycles_of_ne ha hwrite]⟩

/-- The same of a read-modify-write in a memory mode (rules R164, R171, R260). -/
theorem execRmw_cycles_of_ne {m : MemOperand} (op : ByteOp) {s : State} (ha : (effAddr m s).ea ≠ 0x4014) :
    ∃ t, execRmw m op s = .next t ∧ t.cycles = s.cycles + rmwCycles m := by
  rcases execRmw_cases m op s with ⟨-, hdma, -⟩ | ⟨u, hwrite, hnext⟩
  · exact absurd hdma ha
  · exact ⟨_, hnext, by rw [retire_cycles, memWrite_cycles_of_ne ha hwrite, State.setFlags_cycles, memRead_cycles]⟩

/-- Settles O40: an instruction's cost is what it adds to the cycle count, which for a load is `readCost`. -/
theorem pageCrossPenalty : Obligations.PageCrossPenalty := by
  intro s b w cost
  have hcost {i : Instr} {n : Nat} (h : ∃ t, exec i s = .next t ∧ t.cycles = s.cycles + n) : cost i = n := by
    obtain ⟨t, hexec, hcycles⟩ := h
    simp only [cost, hexec, hcycles, Nat.add_sub_cancel_left]
  have hload (o : ReadOperand) :
      cost (.lda o) = readCost o s ∧ cost (.ldx o) = readCost o s ∧ cost (.ldy o) = readCost o s := by
    have hcycles := congrArg (· + readCost o s) (loadOperand_cycles o s)
    exact ⟨hcost (i := .lda o) ⟨_, rfl, hcycles⟩, hcost (i := .ldx o) ⟨_, rfl, hcycles⟩,
      hcost (i := .ldy o) ⟨_, rfl, hcycles⟩⟩
  have hlda (o : ReadOperand) := (hload o).1
  have hldx (o : ReadOperand) := (hload o).2.1
  have hldy (o : ReadOperand) := (hload o).2.2
  refine ⟨hlda (.imm b), hlda (.mem (.zp b)), hlda (.mem (.zpx b)), hldx (.mem (.zpy b)), hlda (.mem (.abs w)),
    hlda (.mem (.izx b)), (hlda _).trans (add_indexed_crossed 4 w s.x), (hldy _).trans (add_indexed_crossed 4 w s.x),
    (hlda _).trans (add_indexed_crossed 4 w s.y), (hldx _).trans (add_indexed_crossed 4 w s.y),
    (hlda _).trans (readCost_izy b s), fun m ha => ⟨?_, fun hmode => ?_⟩⟩
  · rw [hcost (i := .sta m) (execStore_cycles_of_ne s.a ha)]
    cases m <;> rfl
  · rw [hcost (i := .inc m) (execRmw_cycles_of_ne incOp ha)]
    cases m with
    | zp | zpx | abs | abx => rfl
    | zpy | aby | izx | izy => cases hmode

/-! ### JMP -/

/-- Where JMP indirect finds the target's high byte under the page wrap: on the pointer's page (rule R157). -/
theorem indirectHigh_wrap (ptr : Word) : indirectHigh ptr true = mkWord (hi8 ptr) (lo8 (ptr + 1)) := by
  have hhigh : (ptr &&& 0xFF00).toNat = ptr.toNat / 256 * 256 := by
    have hptr := ptr.isLt
    have hmask : ptr.toNat / 2 ^ 8 &&& 0xFF00 / 2 ^ 8 = ptr.toNat / 2 ^ 8 % 2 ^ 8 := Nat.and_two_pow_sub_one_eq_mod _ 8
    have hzero : ptr.toNat % 2 ^ 8 &&& 0xFF00 % 2 ^ 8 = 0 := Nat.and_zero _
    have hand : (ptr &&& 0xFF00).toNat = ptr.toNat &&& 0xFF00 := BitVec.toNat_and _ _
    rw [hand, and_eq_high_add_low _ _ 8, hmask, hzero]
    omega
  have hlow : ((ptr + 1) &&& 0x00FF).toNat = (lo8 (ptr + 1)).toNat := by
    rw [lo8_toNat]
    exact toNat_and_lowMask _ 8 rfl
  refine BitVec.eq_of_toNat_eq ?_
  rw [indirectHigh, if_pos rfl, BitVec.toNat_or, hhigh, hlow, mkWord_toNat, hi8_toNat, mul_comm]
  exact (Nat.two_pow_add_eq_or_of_lt (lo8 (ptr + 1)).isLt _).symm

theorem indirectHigh_eq (ptr : Word) (wrap : Bool) :
    indirectHigh ptr wrap = BitVec.ofNat 16
      (if wrap then ptr.toNat / 256 * 256 + (ptr.toNat + 1) % 256 else (ptr.toNat + 1) % 65536) := by
  have hptr := ptr.isLt
  have hnext : (ptr + 1).toNat = (ptr.toNat + 1) % 65536 := BitVec.toNat_add ptr 1
  refine BitVec.eq_of_toNat_eq ?_
  cases wrap with
  | true =>
    rw [indirectHigh_wrap, mkWord_toNat, hi8_toNat, lo8_toNat, hnext, if_pos rfl, BitVec.toNat_ofNat]
    omega
  | false =>
    rw [indirectHigh, if_neg Bool.false_ne_true, if_neg Bool.false_ne_true, hnext, BitVec.toNat_ofNat]
    omega

/-- What reading the target of a JMP may change: the picture unit, the NMI latch, the input count and the events. -/
theorem jumpTarget_frame (o : JumpOperand) (s : State) :
    ∃ (p : Ppu) (nmi : Bool) (n : Nat) (ev : List Event),
      (jumpTarget o s).2 = { s with ppu := p, nmiServiced := nmi, inputReads := n, events := ev } := by
  cases o with
  | abs target => exact ⟨s.ppu, s.nmiServiced, s.inputReads, s.events, rfl⟩
  | ind ptr =>
    obtain ⟨p, nmi, n, ev, hlo⟩ := memRead_frame ptr s
    obtain ⟨p', nmi', n', ev', hhi⟩ :=
      memRead_frame (indirectHigh ptr s.params.jmpIndirectPageWrap) (memRead ptr s).2
    exact ⟨p', nmi', n', ev', by rw [jumpTarget, hhi, hlo]⟩

theorem exec_jmp (o : JumpOperand) (s : State) :
    exec (.jmp o) s = .next (retireAt (jumpTarget o s).1 (jumpCycles o) (jumpTarget o s).2) := rfl

/-- Settles O54: outside the ports the two reads of JMP indirect are peeks, which leave the state alone. -/
theorem jump : Obligations.Jump := by
  refine fun s w => ⟨rfl, ?_, fun w2 hw2 hlo hhi => ?_⟩
  · obtain ⟨p, nmi, n, ev, hframe⟩ := jumpTarget_frame (.ind w) s
    rw [exec_jmp, hframe]
    exact ⟨_, rfl, ⟨rfl, rfl, rfl, rfl⟩, rfl, fun _ => rfl, rfl, rfl⟩
  · rw [hw2, ← indirectHigh_eq] at hhi ⊢
    simp only [exec_jmp, jumpTarget, memRead_of_not_port _ _ hlo, memRead_of_not_port _ _ hhi]
    rfl

end Sys2Proof.Machine

/-! The six register transfers, as instructions without an operand, and the words written out from the rules' encodings. -/

namespace Sys2Proof.Machine

/-! ### Transfers -/

/-- What an instruction without an operand leaves of the state, when its effect writes registers and flags only (rule R150). -/
theorem retire_registers_frame (length cost : Nat) (a x y sp : Byte) (f : Flags) (s : State) :
    let t := retire length cost { s with a := a, x := x, y := y, sp := sp, flags := f }
    Advanced length cost s t ∧ SameMemory s t ∧ SameDevices s t :=
  ⟨⟨rfl, rfl, rfl⟩, fun _ => rfl, rfl, rfl, rfl, rfl, rfl⟩

/-- An instruction of one byte and 2 cycles that writes `A`, `X`, `Y` and then `SetNZ(v)` (rule R38). -/
theorem exec_setNZ_registers {i : Instr} {s : State} {a x y v : Byte}
    (h : exec i s = .next (retire 1 2 (setNZ v { s with a := a, x := x, y := y }))) :
    ∃ t, exec i s = .next t ∧ t.a = a ∧ t.x = x ∧ t.y = y ∧ t.sp = s.sp ∧ FlagsNZ v s t ∧
      Advanced 1 2 s t ∧ SameMemory s t ∧ SameDevices s t :=
  ⟨_, h, rfl, rfl, rfl, rfl, Flags.setNZ_eq s.flags v, retire_registers_frame 1 2 a x y s.sp (s.flags.setNZ v) s⟩

/-- Settles O43: five transfers copy a register and set Z and N of it; TXS writes `SP` alone. -/
theorem transfers : Obligations.Transfers := by
  refine ⟨⟨rfl, rfl, rfl, rfl, rfl, rfl⟩, fun s => ⟨?tax, ?tay, ?txa, ?tya, ?tsx, ?txs⟩⟩
  case tax => exact exec_setNZ_registers (a := s.a) (x := s.a) (y := s.y) rfl
  case tay => exact exec_setNZ_registers (a := s.a) (x := s.x) (y := s.a) rfl
  case txa => exact exec_setNZ_registers (a := s.x) (x := s.x) (y := s.y) rfl
  case tya => exact exec_setNZ_registers (a := s.y) (x := s.x) (y := s.y) rfl
  case tsx => exact exec_setNZ_registers (a := s.a) (x := s.sp) (y := s.y) rfl
  case txs => exact ⟨_, rfl, rfl, rfl, rfl, rfl, rfl, retire_registers_frame 1 2 s.a s.x s.y s.x s.flags s⟩

/-! ### Words of the rules -/

/-- Settles O4: the decoder computes on each word, an operand of two bytes being read low byte first. -/
theorem specWordsDecode : Obligations.SpecWordsDecode :=
  ⟨rfl, rfl, rfl, rfl, rfl, rfl, rfl, rfl, rfl, rfl, rfl, rfl⟩

end Sys2Proof.Machine

/-! The statements about arithmetic and logic: ADC, the three bitwise operations and the three compares, each a class R
instruction that leaves the registers it does not name. -/

namespace Sys2Proof.Machine

/-! ### ADC -/

/-- The overflow formula of rule R231 is set exactly when the signed sum leaves -128..127. -/
theorem adc_overflow_iff (a m r : Byte) (c : Bool) (hr : r.toNat = (a.toNat + m.toNat + c.toNat) % 256) :
    (a ^^^ r) &&& (m ^^^ r) &&& 0x80 ≠ 0 ↔
      a.toInt + m.toInt + c.toNat < -128 ∨ 127 < a.toInt + m.toInt + c.toNat := by
  have ha := a.isLt
  have hm := m.isLt
  have hc := c.toNat_le
  rw [and_0x80_ne_zero_iff, BitVec.msb_and, BitVec.msb_xor, BitVec.msb_xor, byte_toInt_eq, byte_toInt_eq]
  simp only [BitVec.msb_eq_decide, Bool.and_eq_true, bne_iff_ne, ne_eq, decide_eq_decide]
  split <;> split <;> omega

/-- The sum modulo 256 (rule R231). -/
theorem adcState_a_toNat (m : Byte) (s : State) :
    (adcState m s).a.toNat = (s.a.toNat + m.toNat + s.flags.c.toNat) % 256 :=
  BitVec.toNat_ofNat _ 8

/-- The flags of ADC in integers (rule R231). -/
theorem adcState_flags (m : Byte) (s : State) :
    (adcState m s).flags = { s.flags with
      c := decide (255 < s.a.toNat + m.toNat + s.flags.c.toNat)
      z := decide ((adcState m s).a.toNat = 0)
      n := decide (0x80 ≤ (adcState m s).a.toNat)
      v := decide (s.a.toInt + m.toInt + s.flags.c.toNat < -128 ∨ 127 < s.a.toInt + m.toInt + s.flags.c.toNat) } := by
  rw [← decide_eq_decide.mpr (adc_overflow_iff s.a m _ s.flags.c (adcState_a_toNat m s))]
  exact Flags.setNZ_eq _ _

/-- Settles O44: the operand is read once, which leaves registers and flags alone, and `adcState` is applied. -/
theorem addWithCarry : Obligations.AddWithCarry := by
  refine ⟨groupEncoding_of (fun _ => rfl) (fun _ => rfl), fun _ _ => rfl, fun _ _ => rfl, fun o s => ?_⟩
  intro m
  have ha := adcState_a_toNat m (loadOperand o s).2
  have hflags := adcState_flags m (loadOperand o s).2
  rw [loadOperand_a, loadOperand_flags] at ha hflags
  obtain ⟨hsp, hframe⟩ := execRead_frame o (effect := adcState) (fun _ _ => ⟨_, _, _, _, rfl⟩) s
  refine ⟨_, execRead_eq o adcState s, ha, hflags, ?_, loadOperand_x o s, loadOperand_y o s, hsp, hframe⟩
  rw [retire_flags, hflags]
  exact decide_eq_true_iff.trans (adc_overflow_iff s.a m _ s.flags.c ha).symm

/-! ### AND, ORA, EOR -/

/-- A class R instruction that combines `A` with the operand bit by bit (rules R233 to R235). -/
theorem exec_bitwise {i : Instr} {o : ReadOperand} {s : State} {op : Byte → Byte → Byte} {f : Bool → Bool → Bool}
    (hexec : exec i s = execRead o (fun v t => setNZ (op t.a v) (t.setA (op t.a v))) s)
    (hbits : ∀ (a v : Byte) (k : Nat), k < 8 → (op a v).getLsbD k = f (a.getLsbD k) (v.getLsbD k)) :
    ∃ t, exec i s = .next t ∧
      (∀ k : Nat, k < 8 → t.a.getLsbD k = f (s.a.getLsbD k) ((loadOperand o s).1.getLsbD k)) ∧
      FlagsNZ t.a s t ∧ t.x = s.x ∧ t.y = s.y ∧ t.sp = s.sp ∧
      Advanced (readLength o) (readCost o s) s t ∧ SameMemory s t ∧ SameDevices (loadOperand o s).2 t := by
  obtain ⟨hsp, hframe⟩ := execRead_frame o (effect := fun v t => setNZ (op t.a v) (t.setA (op t.a v)))
    (fun _ _ => ⟨_, _, _, _, rfl⟩) s
  refine ⟨_, hexec, fun k hk => ?_, loadOperand_setNZ o _ s, loadOperand_x o s, loadOperand_y o s, hsp, hframe⟩
  rw [← loadOperand_a o s]
  exact hbits _ _ k hk

/-- Settles O46: the three operations differ in the bit function alone. -/
theorem logicOps : Obligations.LogicOps := by
  refine ⟨groupEncoding_of (fun _ => rfl) (fun _ => rfl), groupEncoding_of (fun _ => rfl) (fun _ => rfl),
    groupEncoding_of (fun _ => rfl) (fun _ => rfl), fun _ _ => rfl, fun _ _ => rfl, fun o s i f hcases => ?_⟩
  rcases hcases with ⟨rfl, rfl⟩ | ⟨rfl, rfl⟩ | ⟨rfl, rfl⟩
  · exact exec_bitwise (op := (· &&& ·)) rfl fun _ _ _ _ => BitVec.getLsbD_and
  · exact exec_bitwise (op := (· ||| ·)) rfl fun _ _ _ _ => BitVec.getLsbD_or
  · exact exec_bitwise (op := (· ^^^ ·)) rfl fun _ _ _ _ => BitVec.getLsbD_xor

/-! ### CMP, CPX, CPY -/

/-- The flags of a compare in integers (rule R236): no borrow, equality and the sign of the wrapped difference. -/
theorem compareState_flags (reg m : Byte) (s : State) :
    (compareState reg m s).flags = { s.flags with
      c := decide (m.toNat ≤ reg.toNat)
      z := decide (reg = m)
      n := decide (0x80 ≤ (reg.toNat + 256 - m.toNat) % 256) } := by
  have hdiff : (reg - m).toNat = (reg.toNat + 256 - m.toNat) % 256 := by rw [BitVec.toNat_sub]; omega
  have hzero : reg - m = 0 ↔ reg = m := sub_eq_zero
  rw [compareState, State.setFlags_flags, Flags.setNZ, bitOf_seven, hdiff, decide_eq_decide.mpr hzero]
  rfl

/-- A class R instruction that compares a register, which the read leaves alone, with the operand (rules R236 to R238). -/
theorem exec_compare {i : Instr} {o : ReadOperand} {s : State} {reg : State → Byte}
    (hexec : exec i s = execRead o (fun v t => compareState (reg t) v t) s)
    (hreg : reg (loadOperand o s).2 = reg s) :
    let m := (loadOperand o s).1
    ∃ t, exec i s = .next t ∧
      t.flags = { s.flags with
        c := decide (m.toNat ≤ (reg s).toNat)
        z := decide (reg s = m)
        n := decide (0x80 ≤ ((reg s).toNat + 256 - m.toNat) % 256) } ∧
      SameRegisters s t ∧ Advanced (readLength o) (readCost o s) s t ∧ SameMemory s t ∧
      SameDevices (loadOperand o s).2 t := by
  intro m
  obtain ⟨hsp, hframe⟩ := execRead_frame o (effect := fun v t => compareState (reg t) v t)
    (fun _ _ => ⟨_, _, _, _, rfl⟩) s
  refine ⟨_, hexec, ?_, ⟨loadOperand_a o s, loadOperand_x o s, loadOperand_y o s, hsp⟩, hframe⟩
  rw [retire_flags, compareState_flags, hreg, loadOperand_flags]

/-- Settles O47: the three compares differ in the register alone. -/
theorem compares : Obligations.Compares := by
  refine ⟨fun _ _ => rfl, fun _ _ => rfl, fun o s i reg hcases => ?_⟩
  rcases hcases with ⟨rfl, rfl⟩ | ⟨rfl, rfl⟩ | ⟨rfl, rfl⟩
  · exact exec_compare (reg := State.a) rfl (loadOperand_a o s)
  · exact exec_compare (reg := State.x) rfl (loadOperand_x o s)
  · exact exec_compare (reg := State.y) rfl (loadOperand_y o s)

end Sys2Proof.Machine

/-! The statements about shifts, increments and decrements: what each one-byte operation computes in integers, and the three
places an instruction applies one to: the accumulator, a memory operand, an index register. -/

namespace Sys2Proof.Machine

/-! ### The one-byte operations in integers -/

/-- The flags after a result `r` with the carry `carry`: C, Z and N are set, the others stay (rules R38, R260). -/
def Flags.withResult (f : Flags) (r : Nat) (carry : Bool) : Flags :=
  { f with c := carry, z := decide (r = 0), n := decide (0x80 ≤ r) }

/-- On the byte `v` and the flags `f` the operation computes the number `r` and the carry `carry` (rule R260). -/
def Computes (op : ByteOp) (v : Byte) (f : Flags) (r : Nat) (carry : Bool) : Prop :=
  (op v f).1.toNat = r ∧ (op v f).2 = f.withResult r carry

/-- An operation that ends in `SetNZ` of its result (rule R38). -/
theorem Computes.of_setNZ {op : ByteOp} {v b : Byte} {f : Flags} {r : Nat} {carry : Bool}
    (hop : op v f = (b, Flags.setNZ { f with c := carry } b)) (hr : b.toNat = r) : Computes op v f r carry := by
  subst hr
  rw [Computes, hop]
  exact ⟨rfl, Flags.setNZ_eq _ b⟩

theorem toNat_shiftLeft_one (v : Byte) : (v <<< 1).toNat = v.toNat * 2 % 256 := by
  rw [BitVec.toNat_shiftLeft, Nat.shiftLeft_eq]

theorem toNat_shiftRight_one (v : Byte) : (v >>> 1).toNat = v.toNat / 2 :=
  BitVec.toNat_ushiftRight v 1

theorem toNat_add_self (v : Byte) : (v + v).toNat = v.toNat * 2 % 256 := by
  rw [BitVec.toNat_add, mul_two]

theorem toNat_sub_one (v : Byte) : (v - 1).toNat = (v.toNat + 255) % 256 := by
  rw [BitVec.toNat_sub, add_comm]
  rfl

theorem toNat_bit1 (c : Bool) : ((bit1 c).setWidth 8).toNat = c.toNat := by
  cases c <;> rfl

theorem toNat_bit1_high (c : Bool) : ((bit1 c).setWidth 8 <<< 7).toNat = 2 ^ 7 * c.toNat := by
  cases c <;> rfl

/-- A left rotate puts the carry into the bit that the shift cleared (rule R263). -/
theorem toNat_shiftLeft_or_bit1 (v : Byte) (c : Bool) :
    (v <<< 1 ||| (bit1 c).setWidth 8).toNat = v.toNat * 2 % 256 + c.toNat := by
  have heven : v.toNat * 2 % 256 = 2 ^ 1 * (v.toNat % 128) := by omega
  rw [BitVec.toNat_or, toNat_shiftLeft_one, toNat_bit1, heven]
  exact (Nat.two_pow_add_eq_or_of_lt c.toNat_lt _).symm

/-- A right rotate puts the carry into bit 7, which the shift cleared (rule R264). -/
theorem toNat_shiftRight_or_bit1 (v : Byte) (c : Bool) :
    (v >>> 1 ||| (bit1 c).setWidth 8 <<< 7).toNat = v.toNat / 2 + 128 * c.toNat := by
  have hv := v.isLt
  rw [BitVec.toNat_or, toNat_shiftRight_one, toNat_bit1_high, Nat.or_comm,
    ← Nat.two_pow_add_eq_or_of_lt (by omega : v.toNat / 2 < 2 ^ 7)]
  omega

theorem aslOp_computes (v : Byte) (f : Flags) : Computes aslOp v f (v.toNat * 2 % 256) (v.getLsbD 7) :=
  .of_setNZ rfl (toNat_shiftLeft_one v)

theorem lsrOp_computes (v : Byte) (f : Flags) : Computes lsrOp v f (v.toNat / 2) (v.getLsbD 0) :=
  .of_setNZ rfl (toNat_shiftRight_one v)

theorem rolOp_computes (v : Byte) (f : Flags) :
    Computes rolOp v f (v.toNat * 2 % 256 + f.c.toNat) (v.getLsbD 7) :=
  .of_setNZ rfl (toNat_shiftLeft_or_bit1 v f.c)

theorem rorOp_computes (v : Byte) (f : Flags) :
    Computes rorOp v f (v.toNat / 2 + 128 * f.c.toNat) (v.getLsbD 0) :=
  .of_setNZ rfl (toNat_shiftRight_or_bit1 v f.c)

theorem incOp_computes (v : Byte) (f : Flags) : Computes incOp v f ((v.toNat + 1) % 256) f.c :=
  .of_setNZ rfl (BitVec.toNat_add v 1)

theorem decOp_computes (v : Byte) (f : Flags) : Computes decOp v f ((v.toNat + 255) % 256) f.c :=
  .of_setNZ rfl (toNat_sub_one v)

/-! ### The accumulator forms -/

/-- A shift of the accumulator completes and changes `A` and the flags only (rule R260). -/
theorem exec_shift_acc {i : Instr} {op : ByteOp} {s : State} {r : Nat} {carry : Bool}
    (hexec : exec i s = execShift .acc op s) (hop : Computes op s.a s.flags r carry) :
    ∃ t, exec i s = .next t ∧ t.a.toNat = r ∧ t.flags = s.flags.withResult r carry ∧
      t.x = s.x ∧ t.y = s.y ∧ t.sp = s.sp ∧ Advanced 1 2 s t ∧ SameMemory s t ∧ SameDevices s t := by
  obtain ⟨hresult, hflags⟩ := hop
  exact ⟨_, hexec, hresult, hflags, rfl, rfl, rfl, retire_registers_frame 1 2 _ s.x s.y s.sp _ s⟩

/-- Settles O49: the four shifts differ in the one-byte operation alone. -/
theorem accumulatorShifts : Obligations.AccumulatorShifts := by
  intro s i r carry hcases
  rcases hcases with ⟨rfl, rfl, rfl⟩ | ⟨rfl, rfl, rfl⟩ | ⟨rfl, rfl, rfl⟩ | ⟨rfl, rfl, rfl⟩
  · exact exec_shift_acc rfl (aslOp_computes s.a s.flags)
  · exact exec_shift_acc rfl (lsrOp_computes s.a s.flags)
  · exact exec_shift_acc rfl (rolOp_computes s.a s.flags)
  · exact exec_shift_acc rfl (rorOp_computes s.a s.flags)

/-! ### The memory forms -/

/-- A DMA reads no flag. -/
theorem oamCopy_setFlags (s : State) (f : Flags) (page : Byte) (n : Nat) :
    oamCopy (s.setFlags f) page n = oamCopy s page n := by
  induction n with
  | zero => rfl
  | succ n ih =>
    rw [oamCopy, ih]
    rfl

theorem flatWrite_setFlags (cell : Nat) (v : Byte) (s : State) (f : Flags) :
    flatWrite cell v (s.setFlags f) = (flatWrite cell v s).setFlags f := by
  rw [flatWrite, flatWrite, apply_ite (State.setFlags · f)]
  rfl

/-- A bus write neither reads nor writes a flag, so flags may be set after it as well as before (rule R82). -/
theorem memWrite_setFlags (a : Word) (v : Byte) (s : State) (f : Flags) :
    memWrite a v (s.setFlags f) = andThen (memWrite a v s) fun u => .next (u.setFlags f) := by
  unfold memWrite
  cases busTarget a with
  | ram | ppuPort | controller | absentPort => rfl
  | oamDma =>
    simp only [oamDma, oamCopy_setFlags]
    split <;> rfl
  | flat cell => exact congrArg Host.Outcome.next (flatWrite_setFlags cell v s f)

/-- A read-modify-write is the bus read, the bus write of the result, and then the flags and the end of the instruction
(rule R260). -/
theorem execRmw_eq {m : MemOperand} {op : ByteOp} {s : State} {r : Nat} {carry : Bool}
    (hop : Computes op (memRead (effAddr m s).ea s).1 s.flags r carry) :
    execRmw m op s =
      andThen (memWrite (effAddr m s).ea (BitVec.ofNat 8 r) (memRead (effAddr m s).ea s).2) fun u =>
        .next (retire (memLength m) (rmwCycles m) (u.setFlags (s.flags.withResult r carry))) := by
  obtain ⟨hresult, hflags⟩ := hop
  have hbyte : BitVec.ofNat 8 r = (op (memRead (effAddr m s).ea s).1 s.flags).1 := by
    rw [← hresult, BitVec.ofNat_toNat, BitVec.setWidth_eq]
  simp only [execRmw, memRead_flags, memWrite_setFlags, hflags, hbyte]
  cases memWrite _ _ (memRead (effAddr m s).ea s).2 <;> rfl

/-- Outside the ports a read-modify-write changes the flags and the cell of its effective address only (rules R86, R260). -/
theorem exec_rmw_of_not_port {i : Instr} {m : MemOperand} {op : ByteOp} {s : State} {r : Nat} {carry : Bool}
    (hport : isPort (effAddr m s).ea = false) (hexec : exec i s = execRmw m op s)
    (hop : Computes op (peek s (effAddr m s).ea) s.flags r carry) :
    ∃ t, exec i s = .next t ∧ t.flags = s.flags.withResult r carry ∧
      SameRegisters s t ∧ SameDevices s t ∧ Advanced (memLength m) (rmwCycles m) s t ∧
      ∀ k : Nat, t.cpuMem.read k =
        if k = codeCell (effAddr m s).ea ∧ ¬ (s.params.romWritePolicy = .discard ∧ 0x8000 ≤ k) then BitVec.ofNat 8 r
        else s.cpuMem.read k := by
  have hread := memRead_of_not_port (effAddr m s).ea s hport
  rw [hexec, execRmw_eq (by rw [hread]; exact hop), hread, memWrite_of_not_port _ _ hport]
  refine ⟨_, rfl, rfl, ?_, ?_, ?_, flatWrite_read (codeCell (effAddr m s).ea) (BitVec.ofNat 8 r) s⟩ <;>
    rw [flatWrite_frame]
  · exact ⟨rfl, rfl, rfl, rfl⟩
  · exact ⟨rfl, rfl, rfl, rfl, rfl⟩
  · exact ⟨rfl, rfl, rfl⟩

/-- Settles O50: the six instructions differ in the one-byte operation alone. -/
theorem readModifyWrite : Obligations.ReadModifyWrite := by
  intro m s i r carry v hport hcases
  rcases hcases with ⟨rfl, rfl, rfl⟩ | ⟨rfl, rfl, rfl⟩ | ⟨rfl, rfl, rfl⟩ | ⟨rfl, rfl, rfl⟩ | ⟨rfl, rfl, rfl⟩ |
    ⟨rfl, rfl, rfl⟩
  · exact exec_rmw_of_not_port hport rfl (aslOp_computes v s.flags)
  · exact exec_rmw_of_not_port hport rfl (lsrOp_computes v s.flags)
  · exact exec_rmw_of_not_port hport rfl (rolOp_computes v s.flags)
  · exact exec_rmw_of_not_port hport rfl (rorOp_computes v s.flags)
  · exact exec_rmw_of_not_port hport rfl (incOp_computes v s.flags)
  · exact exec_rmw_of_not_port hport rfl (decOp_computes v s.flags)

/-- On a port a read-modify-write is the port's read and the port's write, and is refused when that write is a refused DMA. -/
theorem exec_rmw_of_port {i : Instr} {m : MemOperand} {op : ByteOp} {s : State} {r : Byte} {carry : Bool}
    (hport : isPort (effAddr m s).ea = true) (hexec : exec i s = execRmw m op s)
    (hop : Computes op (memRead (effAddr m s).ea s).1 s.flags r.toNat carry) :
    let ea := (effAddr m s).ea
    (ea = 0x4014 ∧ 0x20 ≤ r.toNat ∧ r.toNat ≤ 0x40 → exec i s = .refused .dmaFromPort) ∧
    (¬ (ea = 0x4014 ∧ 0x20 ≤ r.toNat ∧ r.toNat ≤ 0x40) →
      ∃ u t : State, memWrite ea r (memRead ea s).2 = .next u ∧ exec i s = .next t ∧
        t = { u with
          flags := s.flags.withResult r.toNat carry
          pc := s.pc + BitVec.ofNat 16 (memLength m), cycles := u.cycles + rmwCycles m } ∧
        SameRegisters s t ∧ SameMemory s t) := by
  intro ea
  rw [hexec, execRmw_eq hop, BitVec.ofNat_toNat, BitVec.setWidth_eq]
  refine ⟨fun ⟨hdma, hpage⟩ => ?_, fun hok => ?_⟩
  · have hrefused : memWrite ea r (memRead ea s).2 = .refused .dmaFromPort := by
      rw [hdma]
      exact memWrite_oamDma_refused _ hpage
    rw [hrefused]
    rfl
  · rcases memWrite_cases ea r (memRead ea s).2 with ⟨-, hdma, hlo, hhi⟩ | ⟨_, _, _, _, hwrite⟩
    · exact absurd ⟨hdma, hlo, hhi⟩ hok
    · rw [hwrite]
      refine ⟨_, _, rfl, rfl, ?_, ?_, fun k => ?_⟩
      · rw [retire]
        simp only [State.setFlags, memRead_pc]
      · exact ⟨memRead_a ea s, memRead_x ea s, memRead_y ea s, memRead_sp ea s⟩
      · rw [retire_cpuMem, State.setFlags_cpuMem, memWrite_cpuMem_of_port hport hwrite, memRead_cpuMem]

/-- The sum of a left rotate in bytes: the doubled byte is even, so the carry does not wrap (rule R263). -/
theorem toNat_add_self_add_carry (v : Byte) (c : Bool) :
    (v + v + if c then 1 else 0).toNat = v.toNat * 2 % 256 + c.toNat := by
  have hcarry : (if c then 1 else 0 : Byte).toNat = c.toNat := by cases c <;> rfl
  have hc := c.toNat_le
  rw [BitVec.toNat_add, toNat_add_self, hcarry]
  omega

/-- The sum of a right rotate in bytes: the halved byte is below 0x80, so the carry does not wrap (rule R264). -/
theorem toNat_shiftRight_add_carry (v : Byte) (c : Bool) :
    (v >>> 1 + if c then 0x80 else 0).toNat = v.toNat / 2 + 128 * c.toNat := by
  have hcarry : (if c then 0x80 else 0 : Byte).toNat = 128 * c.toNat := by cases c <;> rfl
  have hv := v.isLt
  have hc := c.toNat_le
  rw [BitVec.toNat_add, toNat_shiftRight_one, hcarry]
  omega

/-- Settles O51: the results in bytes are those of the one-byte operations in integers. -/
theorem readModifyWriteOnPorts : Obligations.ReadModifyWriteOnPorts := by
  intro m s i r carry ea v hport hcases
  rcases hcases with ⟨rfl, rfl, rfl⟩ | ⟨rfl, rfl, rfl⟩ | ⟨rfl, rfl, rfl⟩ | ⟨rfl, rfl, rfl⟩ | ⟨rfl, rfl, rfl⟩ |
    ⟨rfl, rfl, rfl⟩
  · exact exec_rmw_of_port hport rfl (toNat_add_self v ▸ aslOp_computes v s.flags)
  · exact exec_rmw_of_port hport rfl (toNat_shiftRight_one v ▸ lsrOp_computes v s.flags)
  · exact exec_rmw_of_port hport rfl (toNat_add_self_add_carry v s.flags.c ▸ rolOp_computes v s.flags)
  · exact exec_rmw_of_port hport rfl (toNat_shiftRight_add_carry v s.flags.c ▸ rorOp_computes v s.flags)
  · exact exec_rmw_of_port hport rfl (BitVec.toNat_add v 1 ▸ incOp_computes v s.flags)
  · exact exec_rmw_of_port hport rfl (toNat_sub_one v ▸ decOp_computes v s.flags)

/-! ### The index registers -/

/-- An instruction that moves `X` by one (rules R267, R269). -/
theorem exec_setNZ_x {i : Instr} {s : State} {v : Byte} {r : Nat}
    (hexec : exec i s = .next (retire 1 2 (setNZ v (s.setX v)))) (hr : v.toNat = r) :
    ∃ t, exec i s = .next t ∧ t.x.toNat = r ∧ t.y = s.y ∧ FlagsNZ t.x s t ∧ t.a = s.a ∧ t.sp = s.sp ∧
      Advanced 1 2 s t ∧ SameMemory s t ∧ SameDevices s t := by
  obtain ⟨t, hnext, ha, rfl, hy, hsp, hflags, hframe⟩ := exec_setNZ_registers (a := s.a) (x := v) (y := s.y) hexec
  exact ⟨t, hnext, hr, hy, hflags, ha, hsp, hframe⟩

/-- An instruction that moves `Y` by one (rules R268, R270). -/
theorem exec_setNZ_y {i : Instr} {s : State} {v : Byte} {r : Nat}
    (hexec : exec i s = .next (retire 1 2 (setNZ v (s.setY v)))) (hr : v.toNat = r) :
    ∃ t, exec i s = .next t ∧ t.y.toNat = r ∧ t.x = s.x ∧ FlagsNZ t.y s t ∧ t.a = s.a ∧ t.sp = s.sp ∧
      Advanced 1 2 s t ∧ SameMemory s t ∧ SameDevices s t := by
  obtain ⟨t, hnext, ha, hx, rfl, hsp, hflags, hframe⟩ := exec_setNZ_registers (a := s.a) (x := s.x) (y := v) hexec
  exact ⟨t, hnext, hr, hx, hflags, ha, hsp, hframe⟩

/-- Settles O52: each is `SetNZ` of one index register's new value, the old one plus or minus 1. -/
theorem indexIncrements : Obligations.IndexIncrements :=
  ⟨⟨rfl, rfl, rfl, rfl⟩, fun s =>
    ⟨exec_setNZ_x (i := .inx) rfl (BitVec.toNat_add s.x 1), exec_setNZ_y (i := .iny) rfl (BitVec.toNat_add s.y 1),
      exec_setNZ_x (i := .dex) rfl (toNat_sub_one s.x), exec_setNZ_y (i := .dey) rfl (toNat_sub_one s.y)⟩⟩

end Sys2Proof.Machine

/-! The statements about control transfer (spec/43_control_transfer.md): the eight branches, which differ in the condition
alone, and JSR and RTS, from what a word pushed leaves in the stack page and a word pulled reads there. -/

namespace Sys2Proof.Machine

/-! ### Branches -/

/-- The target of a branch, which wraps modulo 65536 (rule R290). -/
theorem add_sext16_toNat (next : Word) (rel : Byte) :
    ((next + sext16 rel).toNat : Int) = ((next.toNat : Int) + rel.toInt) % 65536 := by
  have hsum : next + sext16 rel = BitVec.ofInt 16 ((next.toNat : Int) + rel.toInt) := by
    rw [BitVec.ofInt_add, BitVec.ofInt_natCast, BitVec.ofNat_toNat, BitVec.setWidth_eq]
    rfl
  rw [hsum, BitVec.toNat_ofInt]
  exact Int.toNat_of_nonneg (Int.emod_nonneg _ (by decide))

/-- Two words lie on the same page when their quotients by 256 agree (rule R290). -/
theorem hi8_ne_iff_div_ne (v w : Word) : hi8 v ≠ hi8 w ↔ (v.toNat : Int) / 256 ≠ (w.toNat : Int) / 256 := by
  rw [Ne, ← BitVec.toNat_inj, hi8_toNat, hi8_toNat]
  omega

/-- The cycles of a taken branch: one more when the target lies on another page than the next instruction (rule R290). -/
theorem taken_cycles (next target : Word) :
    3 + (decide (hi8 target ≠ hi8 next)).toNat = if (target.toNat : Int) / 256 = (next.toNat : Int) / 256 then 3 else 4 := by
  rw [decide_eq_decide.mpr (hi8_ne_iff_div_ne target next)]
  split
  next hsame => rw [decide_eq_false (not_not.mpr hsame)]; rfl
  next hother => rw [decide_eq_true hother]; rfl

/-- What an instruction that is a branch under `cond` does, in integers (rule R290). -/
theorem exec_branch {i : Instr} {cond : Bool} {rel : Byte} {s : State} (hexec : exec i s = execBranch cond rel s) :
    let next := (s.pc.toNat + 2) % 65536
    let target := ((next : Int) + rel.toInt) % 65536
    ∃ t, exec i s = .next t ∧
      (t.pc.toNat : Int) = (if cond then target else next) ∧
      t.cycles = s.cycles + (if cond then (if target / 256 = (next : Int) / 256 then 3 else 4) else 2) ∧
      t = { s with pc := t.pc, cycles := t.cycles } := by
  intro next target
  have hnext : (s.pc + 2).toNat = next := BitVec.toNat_add s.pc 2
  rw [hexec]
  cases cond with
  | false => exact ⟨_, rfl, congrArg Nat.cast hnext, rfl, rfl⟩
  | true =>
    have htarget : ((s.pc + 2 + sext16 rel).toNat : Int) = target := by rw [add_sext16_toNat, hnext]
    have hcycles := taken_cycles (s.pc + 2) (s.pc + 2 + sext16 rel)
    rw [htarget, hnext] at hcycles
    exact ⟨_, rfl, htarget, congrArg (s.cycles + ·) hcycles, rfl⟩

/-- Settles O53: the eight branches differ in the condition alone. -/
theorem branches : Obligations.Branches := by
  intro s rel i cond hcases
  rcases hcases with ⟨rfl, rfl⟩ | ⟨rfl, rfl⟩ | ⟨rfl, rfl⟩ | ⟨rfl, rfl⟩ | ⟨rfl, rfl⟩ | ⟨rfl, rfl⟩ | ⟨rfl, rfl⟩ |
    ⟨rfl, rfl⟩ <;> exact exec_branch rfl

/-! ### JSR and RTS -/

/-- A word pushed stands in the stack page, its high byte at the old pointer and its low byte below (rules R32, R45). -/
theorem push16_read (w : Word) (s : State) (k : Nat) :
    (push16 w s).cpuMem.read k =
      if k = 0x100 + s.sp.toNat then hi8 w
      else if k = 0x100 + (s.sp - 1).toNat then lo8 w
      else s.cpuMem.read k := by
  have hapart : (s.sp - 1).toNat ≠ s.sp.toNat := by bv_omega
  have hlo : (push8 (hi8 w) s).sp = s.sp - 1 := rfl
  rw [push16, push8_read, push8_read, hlo]
  by_cases hk : k = 0x100 + s.sp.toNat
  · rw [if_pos hk, if_pos hk, if_neg (by omega)]
  · rw [if_neg hk, if_neg hk]

theorem push16_frame (w : Word) (s : State) :
    push16 w s = { s with sp := s.sp - 2, cpuMem := (push16 w s).cpuMem } := by
  have hsp : s.sp - 2 = s.sp - 1 - 1 := by bv_omega
  rw [hsp]
  rfl

/-- A word pulled has its low byte at the new pointer and its high byte above (rules R32, R45). -/
theorem pull16_eq (s : State) :
    pull16 s =
      (mkWord (s.cpuMem.read (0x100 + (s.sp + 2).toNat)) (s.cpuMem.read (0x100 + (s.sp + 1).toNat)),
        s.setSp (s.sp + 2)) := by
  have hsp : s.sp + 2 = s.sp + 1 + 1 := by bv_omega
  rw [hsp, pull16, pull8_eq, pull8_eq]
  rfl

/-- A pull after a push gives the word back and the stack pointer as it was (rule R45). -/
theorem pull16_push16 (w : Word) (s : State) :
    (pull16 (push16 w s)).1 = w ∧ (pull16 (push16 w s)).2.sp = s.sp := by
  have hsp : (push16 w s).sp = s.sp - 2 := congrArg State.sp (push16_frame w s)
  have hhi : s.sp - 2 + 2 = s.sp := BitVec.sub_add_cancel _ _
  have hlo : s.sp - 2 + 1 = s.sp - 1 := by bv_omega
  have hapart : 0x100 + (s.sp - 1).toNat ≠ 0x100 + s.sp.toNat := by bv_omega
  rw [pull16_eq, hsp, hhi, hlo, push16_read, push16_read, if_pos rfl, if_neg hapart, if_pos rfl]
  exact ⟨mkWord_hi8_lo8 w, rfl⟩

theorem exec_rts (s : State) : exec .rts s = .next (retireAt ((pull16 s).1 + 1) 6 (pull16 s).2) := rfl

/-- Settles O55: RTS pulls the word JSR pushed, the address of the JSR's last byte, and adds one. -/
theorem callAndReturn : Obligations.CallAndReturn := by
  refine ⟨fun _ => rfl, rfl, fun s w => ⟨?jsr, ?rts⟩⟩
  case jsr =>
    obtain ⟨hret, hsp⟩ := pull16_push16 (s.pc + 2) s
    refine ⟨retireAt w 6 (push16 (s.pc + 2) s), rfl, push16_read (s.pc + 2) s, ?_, _, exec_rts _, ?_, hsp⟩
    · exact congrArg (retireAt w 6) (push16_frame (s.pc + 2) s)
    · exact (congrArg (· + 1) hret).trans (BitVec.add_assoc s.pc 2 1)
  case rts =>
    rw [exec_rts, pull16_eq]
    rfl

end Sys2Proof.Machine

/-! The statements about the flag instructions and the software interrupt (spec/44_stack_flags_system.md): what exception entry
leaves in the stack page, and that a return from an exception reads it back. -/

namespace Sys2Proof.Machine

/-! ### The flag instructions and NOP -/

/-- Settles O58: each is an instruction without an operand whose effect writes one flag, NOP's none. -/
theorem flagInstructions : Obligations.FlagInstructions := by
  refine ⟨⟨rfl, rfl, rfl, rfl, rfl, rfl, rfl, rfl⟩, fun s i f hcases => ?_⟩
  have hretired : exec i s = .next (retire 1 2 (s.setFlags f)) := by
    rcases hcases with ⟨rfl, rfl⟩ | ⟨rfl, rfl⟩ | ⟨rfl, rfl⟩ | ⟨rfl, rfl⟩ | ⟨rfl, rfl⟩ | ⟨rfl, rfl⟩ | ⟨rfl, rfl⟩ |
      ⟨rfl, rfl⟩ <;> exact execImplied_eq (State.setFlags · _) s
  exact hretired

/-! ### Exception entry -/

/-- The three bytes of exception entry stand in the stack page in the order they were pushed (rules R45, R556, R557). -/
theorem enterInterrupt_read_in_push_order (ret : Word) (status : Byte) (vector : Word) (s : State) (k : Nat) :
    (enterInterrupt ret status vector s).cpuMem.read k =
      if k = 0x100 + s.sp.toNat then hi8 ret
      else if k = 0x100 + (s.sp - 1).toNat then lo8 ret
      else if k = 0x100 + (s.sp - 2).toNat then status
      else s.cpuMem.read k := by
  have hpushed : (enterInterrupt ret status vector s).cpuMem = (push8 status (push16 ret s)).cpuMem := rfl
  have hsp : (push16 ret s).sp = s.sp - 2 := congrArg State.sp (push16_frame ret s)
  have hhi : (s.sp - 2).toNat ≠ s.sp.toNat := by bv_omega
  have hlo : (s.sp - 2).toNat ≠ (s.sp - 1).toNat := by bv_omega
  rw [hpushed, push8_read, push16_read, hsp]
  by_cases hk : k = 0x100 + (s.sp - 2).toNat
  · rw [if_pos hk, if_neg (by omega), if_neg (by omega), if_pos hk]
  · rw [if_neg hk, if_neg hk]

/-- Exception entry writes nothing above the stack page (rule R32). -/
theorem enterInterrupt_read_of_ge {k : Nat} (ret : Word) (status : Byte) (vector : Word) (s : State) (hk : 0x200 ≤ k) :
    (enterInterrupt ret status vector s).cpuMem.read k = s.cpuMem.read k := by
  have habove : ∀ sp : Byte, k ≠ 0x100 + sp.toNat := fun sp => by have hsp := sp.isLt; omega
  rw [enterInterrupt_read, if_neg (habove _), if_neg (habove _), if_neg (habove _)]

/-- Above the ports a peek reads the cell of the same number (rule R85). -/
theorem peek_of_flat {a : Word} (s : State) (h : 0x4018 ≤ a.toNat) : peek s a = s.cpuMem.read a.toNat := by
  rw [peek_of_not_port s (isPort_of_flat h), codeCell_of_flat h]

/-- A vector above the ports is read as it stood before the pushes (rules R13, R100). -/
theorem enterInterrupt_pc {vector : Word} (ret : Word) (status : Byte) (s : State) (hlo : 0x4018 ≤ vector.toNat)
    (hhi : 0x4018 ≤ (vector + 1).toNat) :
    (enterInterrupt ret status vector s).pc =
      s.cpuMem.read (vector + 1).toNat ++ s.cpuMem.read vector.toNat := by
  have hpc : (enterInterrupt ret status vector s).pc = peek16 (enterInterrupt ret status vector s) vector := rfl
  rw [hpc, peek16, peek_of_flat _ hlo, peek_of_flat _ hhi, enterInterrupt_read_of_ge _ _ _ _ (by omega),
    enterInterrupt_read_of_ge _ _ _ _ (by omega), mkWord]

/-- Exception entry changes `PC`, `I`, `SP` and the stack page (rules R556, R557). -/
theorem enterInterrupt_eq {ret vector pc : Word} {status : Byte} {s : State}
    (hpc : (enterInterrupt ret status vector s).pc = pc) :
    enterInterrupt ret status vector s = { s with
      pc := pc, flags := { s.flags with i := true }, sp := s.sp - 3
      cpuMem := (enterInterrupt ret status vector s).cpuMem } := by
  have hsp : s.sp - 3 = s.sp - 1 - 1 - 1 := by bv_omega
  rw [hsp, ← hpc]
  rfl

/-! ### Return from an exception -/

/-- The bytes a return from an exception pulls: the status byte, then `PC` low byte first (rules R334, R559). -/
theorem returnFromInterrupt_eq (s : State) :
    returnFromInterrupt s = { s with
      flags := loadStatus (s.cpuMem.read (0x100 + (s.sp + 1).toNat)) s.flags
      pc := s.cpuMem.read (0x100 + (s.sp + 3).toNat) ++ s.cpuMem.read (0x100 + (s.sp + 2).toNat)
      sp := s.sp + 3 } := by
  have hlo : s.sp + 2 = s.sp + 1 + 1 := by bv_omega
  have hhi : s.sp + 3 = s.sp + 1 + 2 := by bv_omega
  rw [hlo, hhi, returnFromInterrupt, pull8_eq, pull16_eq]
  rfl

/-- A return undoes an entry: the address and the stack pointer come back, and the flags are those of the byte pushed, the
flag `B` being no part of it (rules R37, R559). -/
theorem returnFromInterrupt_enterInterrupt (ret : Word) (status : Byte) (vector : Word) (s : State) :
    let u := returnFromInterrupt (enterInterrupt ret status vector s)
    u.pc = ret ∧ u.sp = s.sp ∧ u.flags = loadStatus status s.flags := by
  have hsp : (enterInterrupt ret status vector s).sp = s.sp - 3 :=
    congrArg State.sp (enterInterrupt_eq rfl)
  have hback3 : s.sp - 3 + 3 = s.sp := BitVec.sub_add_cancel _ _
  have hback2 : s.sp - 3 + 2 = s.sp - 1 := by bv_omega
  have hback1 : s.sp - 3 + 1 = s.sp - 2 := by bv_omega
  have hhi : (enterInterrupt ret status vector s).cpuMem.read (0x100 + s.sp.toNat) = hi8 ret := by
    rw [enterInterrupt_read_in_push_order, if_pos rfl]
  have hlo : (enterInterrupt ret status vector s).cpuMem.read (0x100 + (s.sp - 1).toNat) = lo8 ret := by
    rw [enterInterrupt_read_in_push_order, if_neg (by bv_omega), if_pos rfl]
  have hstatus : (enterInterrupt ret status vector s).cpuMem.read (0x100 + (s.sp - 2).toNat) = status := by
    rw [enterInterrupt_read_in_push_order, if_neg (by bv_omega), if_neg (by bv_omega), if_pos rfl]
  rw [returnFromInterrupt_eq, hsp, hback3, hback2, hback1, hhi, hlo, hstatus]
  exact ⟨mkWord_hi8_lo8 ret, rfl, rfl⟩

/-- Bit 4 of a pulled byte is ignored, so the byte BRK pushes loads as the status byte does (rules R36, R37). -/
theorem loadStatus_statusByteBrk (f g : Flags) : loadStatus (statusByteBrk f) g = loadStatus (statusByte f) g := by
  simp only [loadStatus, bitOf, statusByteBrk_getLsbD]
  rfl

/-! ### BRK and RTI -/

theorem exec_brk (s : State) :
    exec .brk s = .next (addCycles 7 (enterInterrupt (s.pc + 2) (statusByteBrk s.flags) 0xFFFE s)) := rfl

theorem exec_rti (s : State) : exec .rti s = .next (addCycles 6 (returnFromInterrupt s)) := rfl

/-- Settles O59: RTI pulls the status byte and the address BRK pushed. -/
theorem breakAndReturn : Obligations.BreakAndReturn := by
  refine ⟨rfl, rfl, fun s => ⟨?brk, ?rti⟩⟩
  case brk =>
    have hexec := exec_brk s
    have hbytes := enterInterrupt_read_in_push_order (s.pc + 2) (statusByteBrk s.flags) 0xFFFE s
    have hvector : (enterInterrupt (s.pc + 2) (statusByteBrk s.flags) 0xFFFE s).pc =
        s.cpuMem.read 0xFFFF ++ s.cpuMem.read 0xFFFE :=
      enterInterrupt_pc (s.pc + 2) (statusByteBrk s.flags) s (by decide) (by decide)
    have hframe := enterInterrupt_eq hvector
    obtain ⟨hret, hsp, hflags⟩ :=
      returnFromInterrupt_enterInterrupt (s.pc + 2) (statusByteBrk s.flags) 0xFFFE s
    rw [loadStatus_statusByteBrk, loadStatus_statusByte] at hflags
    generalize enterInterrupt (s.pc + 2) (statusByteBrk s.flags) 0xFFFE s = e at *
    exact ⟨addCycles 7 e, hexec, hbytes, congrArg (addCycles 7) hframe, _, exec_rti _, hret, hsp, hflags⟩
  case rti =>
    rw [exec_rti, returnFromInterrupt_eq]
    rfl

end Sys2Proof.Machine

/-! The statements about the PPU's ports (spec/45_ppu_ports.md): an access to an address of a port is the port's handler, a
slice write is a bit-by-bit choice, and PPUDATA steps `v` and reads through its buffer. -/

namespace Sys2Proof.Machine

/-! ### Port dispatch -/

/-- A read of an address of port `n` is that port's read (rules R84, R361). -/
theorem memRead_of_ppuPort {a : Word} (s : State) (n : Nat) (hlo : 0x2000 ≤ a.toNat) (hhi : a.toNat ≤ 0x3FFF)
    (hn : n < 8) (hport : a.toNat % 8 = n) : memRead a s = ppuPortRead (BitVec.ofNat 3 n) a s := by
  rw [memRead, busTarget_of_ppuPort hlo hhi, (ppuPort_eq_iff a n hn).mpr hport]

/-- A write to an address of port `n` is that port's write (rules R84, R361). -/
theorem memWrite_of_ppuPort {a : Word} (v : Byte) (s : State) (n : Nat) (hlo : 0x2000 ≤ a.toNat) (hhi : a.toNat ≤ 0x3FFF)
    (hn : n < 8) (hport : a.toNat % 8 = n) :
    memWrite a v s = .next (s.setPpu (ppuPortWrite (BitVec.ofNat 3 n) v s.ppu)) := by
  rw [memWrite, busTarget_of_ppuPort hlo hhi, (ppuPort_eq_iff a n hn).mpr hport]

/-! ### PPUSTATUS and the OAM ports -/

theorem statusRead_eq (s : State) :
    statusRead s = (s.ppu.status,
      { s with
        nmiServiced := false
        ppu := { s.ppu with
          status := s.ppu.status &&& 0x7F, nmiEligible := false, w := false,
          nmiSuppress := if s.ppu.scanline = 240 ∧ s.ppu.cycle = 340 then true else s.ppu.nmiSuppress } }) := by
  have hedge : (s.ppu.nmiSuppress || (decide (s.ppu.scanline = 240) && decide (s.ppu.cycle = 340))) =
      if s.ppu.scanline = 240 ∧ s.ppu.cycle = 340 then true else s.ppu.nmiSuppress := by
    rw [← Bool.decide_and]
    split
    next h => rw [decide_eq_true h, Bool.or_true]
    next h => rw [decide_eq_false h, Bool.or_false]
  rw [← hedge]
  rfl

/-- Settles O23: every address of port 2 reads PPUSTATUS. -/
theorem statusPortRead : Obligations.StatusPortRead := by
  intro s a hlo hhi hport
  rw [memRead_of_ppuPort s 2 hlo hhi (by omega) hport]
  exact statusRead_eq s

theorem Ppu.onFetchLine_iff (p : Ppu) : p.onFetchLine = true ↔ p.scanline ≤ 239 ∨ p.scanline = 261 := by
  rw [Ppu.onFetchLine, Bool.or_eq_true, decide_eq_true_eq, decide_eq_true_eq]

theorem oamDataRead_eq (p : Ppu) :
    oamDataRead p = if (p.scanline ≤ 239 ∨ p.scanline = 261) ∧ 1 ≤ p.cycle ∧ p.cycle ≤ 64 then 0xFF
      else p.oam.read p.oamAddr.toNat :=
  if_congr (and_congr_left' p.onFetchLine_iff) rfl rfl

/-- Settles O25: an OAMDATA write stores at OAMADDR, and a read answers 0xFF in the clear window (rule R367). -/
theorem oamPorts : Obligations.OamPorts := by
  refine fun s a v hlo hhi => ⟨fun hport => ?addr, fun hport => ?write, fun hport => ?read⟩
  case addr => exact memWrite_of_ppuPort v s 3 hlo hhi (by omega) hport
  case write =>
    exact ⟨_, memWrite_of_ppuPort v s 4 hlo hhi (by omega) hport, fun k => Memory.read_write _ _ _ _, rfl⟩
  case read =>
    rw [memRead_of_ppuPort s 4 hlo hhi (by omega) hport, ← oamDataRead_eq]
    rfl

/-! ### Slice writes -/

/-- A slice write inside the register, bit by bit (rule R12): a bit lies below the slice, in it or above it. -/
theorem setField_getLsbD {n : Nat} (v : VramAddr) {lo : Nat} (x : BitVec n) (hfit : lo + n ≤ 15) (i : Nat) :
    (setField v lo x).getLsbD i = if lo ≤ i ∧ i < lo + n then x.getLsbD (i - lo) else v.getLsbD i := by
  simp only [setField, BitVec.getLsbD_or, BitVec.getLsbD_and, BitVec.getLsbD_not, BitVec.getLsbD_shiftLeft,
    BitVec.getLsbD_setWidth, BitVec.getLsbD_allOnes]
  rcases lt_or_ge i lo with hbelow | hlo
  · have hwidth : i < 15 := by omega
    simp [hbelow, hwidth, hbelow.not_ge]
  rcases lt_or_ge i (lo + n) with hin | habove
  · have hwidth : i < 15 := by omega
    have hoffset : i - lo < n := by omega
    have hoffset15 : i - lo < 15 := by omega
    simp [hlo, hin, hwidth, hoffset, hoffset15, hlo.not_gt]
  · have hoffset : ¬ i - lo < n := by omega
    have hx : x.getLsbD (i - lo) = false := BitVec.getLsbD_of_ge x _ (by omega)
    have hv : (v.getLsbD i && decide (i < 15)) = v.getLsbD i := by
      by_cases hwidth : i < 15
      · simp [hwidth]
      · simp [hwidth, BitVec.getLsbD_of_ge v i (by omega)]
    simp [habove.not_gt, hoffset, hx, hv]

/-! ### PPUCTRL and PPUMASK -/

/-- Settles O24: the copy into `t` is one slice write of two bits. -/
theorem controlAndMaskWrites : Obligations.ControlAndMaskWrites := by
  refine fun s a v hlo hhi => ⟨fun hport => ?ctrl, fun hport => ?mask⟩
  case ctrl =>
    refine ⟨_, memWrite_of_ppuPort v s 0 hlo hhi (by omega) hport, fun i => ?_, rfl⟩
    refine (setField_getLsbD s.ppu.t (v.setWidth 2) (by omega) i).trans ?_
    by_cases h10 : i = 10
    · simp [h10]
    by_cases h11 : i = 11
    · simp [h11]
    · rw [if_neg (by omega), if_neg h10, if_neg h11]
  case mask => exact memWrite_of_ppuPort v s 1 hlo hhi (by omega) hport

/-! ### PPUSCROLL and PPUADDR -/

/-- First PPUSCROLL write: `t[4:0] <- val[7:3]; x <- val[2:0]` (rule R368). -/
theorem scrollWrite_first {p : Ppu} (val : Byte) (hw : p.w = false) :
    scrollWrite val p =
      { p with t := setField p.t 0 (val.extractLsb' 3 5), fineX := val.setWidth 3, w := true } := by
  simp only [scrollWrite, hw, Bool.false_eq_true, if_false]

/-- Second PPUSCROLL write: `t[14:12] <- val[2:0]; t[9:5] <- val[7:3]` (rule R368). -/
theorem scrollWrite_second {p : Ppu} (val : Byte) (hw : p.w = true) :
    scrollWrite val p =
      { p with t := setField (setField p.t 12 (val.setWidth 3)) 5 (val.extractLsb' 3 5), w := false } := by
  simp only [scrollWrite, hw, if_true]

/-- First PPUADDR write: `t[13:8] <- val[5:0]; t[14] <- 0` (rule R369). -/
theorem addrWrite_first {p : Ppu} (val : Byte) (hw : p.w = false) :
    addrWrite val p =
      { p with t := setField (setField p.t 8 (val.setWidth 6)) 14 (0 : BitVec 1), w := true } := by
  simp only [addrWrite, hw, Bool.false_eq_true, if_false]

/-- Second PPUADDR write: `t[7:0] <- val; v <- t` (rule R370). -/
theorem addrWrite_second {p : Ppu} (val : Byte) (hw : p.w = true) :
    addrWrite val p = { p with t := setField p.t 0 val, v := setField p.t 0 val, w := false } := by
  simp only [addrWrite, hw, if_true]

/-- The upper five bits of a byte. -/
theorem getLsbD_upperFive (val : Byte) {i : Nat} (hi : i < 5) : (val.extractLsb' 3 5).getLsbD i = val.getLsbD (i + 3) := by
  simp [hi, Nat.add_comm]

/-- The lower `k` bits of a byte. -/
theorem getLsbD_lower (val : Byte) {k i : Nat} (hi : i < k) : (val.setWidth k).getLsbD i = val.getLsbD i := by
  simp [hi]

theorem memWrite_scroll {a : Word} (v : Byte) (s : State) (hlo : 0x2000 ≤ a.toNat) (hhi : a.toNat ≤ 0x3FFF)
    (hport : a.toNat % 8 = 5) : memWrite a v s = .next (s.setPpu (scrollWrite v s.ppu)) :=
  memWrite_of_ppuPort v s 5 hlo hhi (by omega) hport

theorem memWrite_addr {a : Word} (v : Byte) (s : State) (hlo : 0x2000 ≤ a.toNat) (hhi : a.toNat ≤ 0x3FFF)
    (hport : a.toNat % 8 = 6) : memWrite a v s = .next (s.setPpu (addrWrite v s.ppu)) :=
  memWrite_of_ppuPort v s 6 hlo hhi (by omega) hport

/-- Settles O26: each write is one or two slice writes of `t`. -/
theorem scrollAndAddressWrites : Obligations.ScrollAndAddressWrites := by
  refine fun s a v hlo hhi => ⟨fun hport hw => ?scrollFirst, fun hport hw => ?scrollSecond,
    fun hport hw => ?addrFirst, fun hport hw => ?addrSecond⟩
  case scrollFirst =>
    rw [memWrite_scroll v s hlo hhi hport, scrollWrite_first v hw]
    refine ⟨_, rfl, fun i _ => ?_, fun i hi => getLsbD_lower v hi, rfl⟩
    rw [State.setPpu_ppu, setField_getLsbD _ _ (by omega)]
    by_cases hi : i < 5
    · rw [if_pos (by omega), if_pos hi, Nat.sub_zero, getLsbD_upperFive v hi]
    · rw [if_neg (by omega), if_neg hi]
  case scrollSecond =>
    rw [memWrite_scroll v s hlo hhi hport, scrollWrite_second v hw]
    refine ⟨_, rfl, fun i hi => ?_, rfl⟩
    rw [State.setPpu_ppu, setField_getLsbD _ _ (by omega), setField_getLsbD _ _ (by omega)]
    by_cases hfine : 12 ≤ i
    · rw [if_neg (by omega), if_pos (by omega), if_pos hfine, getLsbD_lower v (by omega)]
    rw [if_neg (c := 12 ≤ i ∧ _) (by omega), if_neg hfine]
    by_cases hcoarse : 5 ≤ i ∧ i ≤ 9
    · have hsub : i - 5 + 3 = i - 2 := by omega
      rw [if_pos (by omega), if_pos hcoarse, getLsbD_upperFive v (by omega), hsub]
    · rw [if_neg (by omega), if_neg hcoarse]
  case addrFirst =>
    rw [memWrite_addr v s hlo hhi hport, addrWrite_first v hw]
    refine ⟨_, rfl, fun i hi => ?_, rfl⟩
    rw [State.setPpu_ppu, setField_getLsbD _ _ (by omega), setField_getLsbD _ _ (by omega)]
    by_cases htop : i = 14
    · rw [if_pos (by omega), if_pos htop]
      exact BitVec.getLsbD_zero
    rw [if_neg (by omega), if_neg htop]
    by_cases hhigh : 8 ≤ i
    · rw [if_pos (by omega), if_pos hhigh, getLsbD_lower v (by omega)]
    · rw [if_neg (by omega), if_neg hhigh]
  case addrSecond =>
    rw [memWrite_addr v s hlo hhi hport, addrWrite_second v hw]
    refine ⟨_, rfl, fun i _ => ?_, rfl⟩
    rw [State.setPpu_ppu, setField_getLsbD _ _ (by omega)]
    exact if_congr (by omega) rfl rfl

/-! ### PPUDATA -/

/-- The step of `v` after a PPUDATA access, in integers (rule R372). -/
theorem Ppu.nextV_toNat (p : Ppu) :
    p.nextV.toNat = (p.v.toNat + if p.ctrl.getLsbD 2 then 32 else 1) % 32768 := by
  rw [Ppu.nextV, BitVec.toNat_add, apply_ite BitVec.toNat]
  rfl

/-- The PPU address of a PPUDATA access: the low 14 bits of `v`. -/
theorem dataAddr_eq (v : VramAddr) : v.setWidth 16 &&& 0x3FFF = BitVec.ofNat 16 (v.toNat % 0x4000) := by
  have hv := v.isLt
  refine BitVec.eq_of_toNat_eq ?_
  rw [toNat_and_lowMask _ 14 rfl, BitVec.toNat_setWidth, BitVec.toNat_ofNat]
  omega

theorem dataAddr_lt_palette_iff (n : Nat) : BitVec.ofNat 16 (n % 0x4000) < 0x3F00 ↔ n % 0x4000 < 0x3F00 := by
  have hmod : n % 0x4000 % 2 ^ 16 = n % 0x4000 := by omega
  rw [BitVec.lt_def, BitVec.toNat_ofNat, hmod]
  rfl

/-- Below the palette a PPUDATA read answers the buffer and refills it (rule R371). -/
theorem dataRead_buffered {p : Ppu} (h : p.v.toNat % 0x4000 < 0x3F00) :
    dataRead p = (p.readBuffer,
      { p with readBuffer := p.read (BitVec.ofNat 16 (p.v.toNat % 0x4000)), v := p.nextV }) := by
  rw [dataRead, dataAddr_eq]
  exact if_pos ((dataAddr_lt_palette_iff _).mpr h)

/-- In the palette a PPUDATA read is immediate; the buffer takes the nametable byte below (rule R371). -/
theorem dataRead_palette {p : Ppu} (h : 0x3F00 ≤ p.v.toNat % 0x4000) :
    dataRead p = (p.read (BitVec.ofNat 16 (p.v.toNat % 0x4000)),
      { p with readBuffer := p.read (BitVec.ofNat 16 (p.v.toNat % 0x4000 - 0x1000)), v := p.nextV }) := by
  have hsub : BitVec.ofNat 16 (p.v.toNat % 0x4000) - 0x1000 = BitVec.ofNat 16 (p.v.toNat % 0x4000 - 0x1000) := by bv_omega
  rw [dataRead, dataAddr_eq, ← hsub]
  exact if_neg fun hlt => absurd ((dataAddr_lt_palette_iff _).mp hlt) (by omega)

theorem dataRead_v (p : Ppu) : (dataRead p).2.v = p.nextV := by
  unfold dataRead
  dsimp only
  split <;> rfl

theorem memRead_data {a : Word} (s : State) (hlo : 0x2000 ≤ a.toNat) (hhi : a.toNat ≤ 0x3FFF)
    (hport : a.toNat % 8 = 7) : memRead a s = ((dataRead s.ppu).1, s.setPpu (dataRead s.ppu).2) :=
  memRead_of_ppuPort s 7 hlo hhi (by omega) hport

/-- Settles O27: the address of either access is `v` modulo 0x4000. -/
theorem dataPort : Obligations.DataPort := by
  intro s a hlo hhi hport
  have hread := memRead_data s hlo hhi hport
  refine ⟨fun hbelow => ?buffered, fun hpalette => ?palette, ?step, fun val => ?write⟩
  case buffered =>
    rw [hread, dataRead_buffered hbelow]
    exact ⟨rfl, rfl⟩
  case palette =>
    rw [hread, dataRead_palette hpalette]
    exact ⟨rfl, rfl⟩
  case step => rw [hread, State.setPpu_ppu, dataRead_v, Ppu.nextV_toNat]
  case write =>
    refine ⟨_, memWrite_of_ppuPort val s 7 hlo hhi (by omega) hport, fun b => ?_, Ppu.nextV_toNat s.ppu, rfl⟩
    rw [← dataAddr_eq]
    exact Ppu.read_write s.ppu _ b val

end Sys2Proof.Machine

/-! The statements about the timing of the PPU's dots (spec/46_ppu_timing.md) and the pixel of a visible dot: an increment
of `v` is a slice write, a dot is the picture's work, the timing engine's action and the advance of the counters. -/

namespace Sys2Proof.Machine

/-! ### Fields of the scroll register -/

/-- A slice write is read back by the slice (rule R12). -/
theorem extractLsb'_setField_same {n lo : Nat} (v : VramAddr) (x : BitVec n) (hfit : lo + n ≤ 15) :
    (setField v lo x).extractLsb' lo n = x := by
  refine BitVec.eq_of_getLsbD_eq fun i hi => ?_
  have hin : lo ≤ lo + i ∧ lo + i < lo + n := by omega
  simp [setField_getLsbD v x hfit, hin, hi]

/-- A slice write leaves a slice below or above it alone (rule R12). -/
theorem extractLsb'_setField_disjoint {n lo k m : Nat} (v : VramAddr) (x : BitVec n) (hfit : lo + n ≤ 15)
    (hdisjoint : k + m ≤ lo ∨ lo + n ≤ k) : (setField v lo x).extractLsb' k m = v.extractLsb' k m := by
  refine BitVec.eq_of_getLsbD_eq fun i hi => ?_
  have hout : ¬ (lo ≤ k + i ∧ k + i < lo + n) := by omega
  simp only [BitVec.getLsbD_extractLsb', setField_getLsbD v x hfit, if_neg hout]

/-- Flipping bit `k` changes bit `k` only. -/
theorem getLsbD_xor_twoPow (v : VramAddr) {k : Nat} (hk : k < 15) (i : Nat) :
    (v ^^^ BitVec.twoPow 15 k).getLsbD i = if i = k then !v.getLsbD k else v.getLsbD i := by
  rw [BitVec.getLsbD_xor, BitVec.getLsbD_twoPow]
  split
  next h => subst h; simp [hk]
  next h => simp [Ne.symm h]

/-- Flipping bit `k` leaves a slice without it alone. -/
theorem extractLsb'_xor_twoPow {k lo n : Nat} (v : VramAddr) (hk : k < 15) (hout : k < lo ∨ lo + n ≤ k) :
    (v ^^^ BitVec.twoPow 15 k).extractLsb' lo n = v.extractLsb' lo n := by
  refine BitVec.eq_of_getLsbD_eq fun i hi => ?_
  have hne : lo + i ≠ k := by omega
  simp only [BitVec.getLsbD_extractLsb', getLsbD_xor_twoPow v hk, if_neg hne]

/-! ### The increments of the scroll register -/

/-- The coarse-X increment below the last column, and at it (rule R449). -/
theorem coarseXIncrement_cases (v : VramAddr) :
    ((coarseX v).toNat < 31 ∧ coarseXIncrement v = setField v 0 (coarseX v + 1)) ∨
    ((coarseX v).toNat = 31 ∧ coarseXIncrement v = setField v 0 (0 : BitVec 5) ^^^ BitVec.twoPow 15 10) := by
  have hbound := (coarseX v).isLt
  unfold coarseXIncrement
  split
  next h => exact .inr ⟨congrArg BitVec.toNat h, rfl⟩
  next h =>
    have hne : (coarseX v).toNat ≠ 31 := fun e => h (BitVec.eq_of_toNat_eq e)
    exact .inl ⟨by omega, rfl⟩

/-- The vertical increment within a tile, at the last row of a nametable, and at the other tile ends (rule R405). -/
theorem verticalIncrement_cases (v : VramAddr) :
    ((fineY v).toNat < 7 ∧ verticalIncrement v = setField v 12 (fineY v + 1)) ∨
    ((fineY v).toNat = 7 ∧ (coarseY v).toNat = 29 ∧
      verticalIncrement v = setField (setField v 12 (0 : BitVec 3)) 5 (0 : BitVec 5) ^^^ BitVec.twoPow 15 11) ∨
    ((fineY v).toNat = 7 ∧ (coarseY v).toNat ≠ 29 ∧
      verticalIncrement v = setField (setField v 12 (0 : BitVec 3)) 5 (coarseY v + 1)) := by
  have hbound := (fineY v).isLt
  unfold verticalIncrement
  split
  next hlt => exact .inl ⟨hlt, rfl⟩
  next hlt =>
    have hfine : (fineY v).toNat = 7 := by
      have hge : ¬ (fineY v).toNat < 7 := hlt
      omega
    dsimp only
    split
    next h29 => exact .inr (.inl ⟨hfine, congrArg BitVec.toNat h29, rfl⟩)
    next h29 =>
      have hne : (coarseY v).toNat ≠ 29 := fun e => h29 (BitVec.eq_of_toNat_eq e)
      split
      next h31 => rw [h31]; exact .inr (.inr ⟨hfine, by decide, rfl⟩)
      next => exact .inr (.inr ⟨hfine, hne, rfl⟩)

theorem coarseX_coarseXIncrement (v : VramAddr) :
    (coarseX (coarseXIncrement v)).toNat = ((coarseX v).toNat + 1) % 32 := by
  rcases coarseXIncrement_cases v with ⟨-, h⟩ | ⟨hlast, h⟩ <;> rw [h]
  · have hread : coarseX (setField v 0 (coarseX v + 1)) = coarseX v + 1 :=
      extractLsb'_setField_same v (coarseX v + 1) (by decide)
    rw [hread, BitVec.toNat_add]
    rfl
  · have hread : coarseX (setField v 0 (0 : BitVec 5) ^^^ BitVec.twoPow 15 10) = 0 :=
      (extractLsb'_xor_twoPow _ (by decide) (by decide)).trans
        (extractLsb'_setField_same v (0 : BitVec 5) (by decide))
    rw [hread, hlast]
    rfl

/-- Above coarse X the increment touches bit 10 only, at the last column (rule R449). -/
theorem getLsbD_coarseXIncrement (v : VramAddr) {i : Nat} (hi : 5 ≤ i) :
    (coarseXIncrement v).getLsbD i =
      if i = 10 ∧ (coarseX v).toNat = 31 then !v.getLsbD 10 else v.getLsbD i := by
  have hset : ∀ (x : BitVec 5) (j : Nat), 5 ≤ j → (setField v 0 x).getLsbD j = v.getLsbD j := fun x j hj => by
    rw [setField_getLsbD v x (by decide), if_neg (by omega)]
  rcases coarseXIncrement_cases v with ⟨hlt, h⟩ | ⟨hlast, h⟩ <;> rw [h]
  · rw [hset _ _ hi, if_neg (by omega)]
  · rw [getLsbD_xor_twoPow _ (by decide), hset _ _ hi, hset _ _ (by decide)]
    exact if_congr (by simp [hlast]) rfl rfl

theorem fineY_verticalIncrement (v : VramAddr) :
    (fineY (verticalIncrement v)).toNat = ((fineY v).toNat + 1) % 8 := by
  rcases verticalIncrement_cases v with ⟨-, h⟩ | ⟨hfine, -, h⟩ | ⟨hfine, -, h⟩ <;> rw [h, fineY]
  · rw [extractLsb'_setField_same _ _ (by decide), BitVec.toNat_add]
    rfl
  · rw [extractLsb'_xor_twoPow _ (by decide) (by decide), extractLsb'_setField_disjoint _ _ (by decide) (by decide),
      extractLsb'_setField_same _ _ (by decide), hfine]
    rfl
  · rw [extractLsb'_setField_disjoint _ _ (by decide) (by decide), extractLsb'_setField_same _ _ (by decide), hfine]
    rfl

theorem coarseX_verticalIncrement (v : VramAddr) : coarseX (verticalIncrement v) = coarseX v := by
  rcases verticalIncrement_cases v with ⟨-, h⟩ | ⟨-, -, h⟩ | ⟨-, -, h⟩ <;> rw [h, coarseX]
  · rw [extractLsb'_setField_disjoint _ _ (by decide) (by decide)]
    rfl
  · rw [extractLsb'_xor_twoPow _ (by decide) (by decide), extractLsb'_setField_disjoint _ _ (by decide) (by decide),
      extractLsb'_setField_disjoint _ _ (by decide) (by decide)]
    rfl
  · rw [extractLsb'_setField_disjoint _ _ (by decide) (by decide),
      extractLsb'_setField_disjoint _ _ (by decide) (by decide)]
    rfl

theorem coarseY_verticalIncrement (v : VramAddr) :
    (coarseY (verticalIncrement v)).toNat =
      if (fineY v).toNat < 7 then (coarseY v).toNat
      else if (coarseY v).toNat = 29 ∨ (coarseY v).toNat = 31 then 0 else (coarseY v).toNat + 1 := by
  have hbound := (coarseY v).isLt
  rcases verticalIncrement_cases v with ⟨hlt, h⟩ | ⟨hfine, h29, h⟩ | ⟨hfine, h29, h⟩ <;> rw [h]
  · have hread : coarseY (setField v 12 (fineY v + 1)) = coarseY v :=
      extractLsb'_setField_disjoint _ _ (by decide) (by decide)
    rw [hread, if_pos hlt]
  · have hread : coarseY (setField (setField v 12 (0 : BitVec 3)) 5 (0 : BitVec 5) ^^^ BitVec.twoPow 15 11) = 0 :=
      (extractLsb'_xor_twoPow _ (by decide) (by decide)).trans (extractLsb'_setField_same _ _ (by decide))
    rw [hread, if_neg (by omega), if_pos (.inl h29)]
    rfl
  · have hread : coarseY (setField (setField v 12 (0 : BitVec 3)) 5 (coarseY v + 1)) = coarseY v + 1 :=
      extractLsb'_setField_same _ _ (by decide)
    have hsum : (coarseY v + 1).toNat = ((coarseY v).toNat + 1) % 32 := BitVec.toNat_add _ _
    rw [hread, if_neg (by omega), hsum]
    split <;> omega

/-- Of the nametable bits the vertical increment touches bit 11 only, at the last row of a nametable (rule R405). -/
theorem getLsbD_verticalIncrement (v : VramAddr) {i : Nat} (hlo : 10 ≤ i) (hhi : i ≤ 11) :
    (verticalIncrement v).getLsbD i =
      if i = 11 ∧ (fineY v).toNat = 7 ∧ (coarseY v).toNat = 29 then !v.getLsbD 11 else v.getLsbD i := by
  have hfineSet : ∀ (u : VramAddr) (x : BitVec 3) (j : Nat), j ≤ 11 → (setField u 12 x).getLsbD j = u.getLsbD j :=
    fun u x j hj => by rw [setField_getLsbD u x (by decide), if_neg (by omega)]
  have hcoarseSet : ∀ (u : VramAddr) (x : BitVec 5) (j : Nat), 10 ≤ j → (setField u 5 x).getLsbD j = u.getLsbD j :=
    fun u x j hj => by rw [setField_getLsbD u x (by decide), if_neg (by omega)]
  rcases verticalIncrement_cases v with ⟨hlt, h⟩ | ⟨hfine, h29, h⟩ | ⟨hfine, h29, h⟩ <;> rw [h]
  · rw [hfineSet _ _ _ hhi, if_neg (by omega)]
  · rw [getLsbD_xor_twoPow _ (by decide), hcoarseSet _ _ _ hlo, hfineSet _ _ _ hhi, hcoarseSet _ _ _ (by decide),
      hfineSet _ _ _ (by decide)]
    exact if_congr (by simp [hfine, h29]) rfl rfl
  · rw [hcoarseSet _ _ _ hlo, hfineSet _ _ _ hhi, if_neg (by omega)]

/-- Settles O28: each increment is one or two slice writes and at most one flipped bit. -/
theorem incrementsOfTheScrollRegister : Obligations.IncrementsOfTheScrollRegister := by
  intro v
  refine ⟨coarseX_coarseXIncrement v, fun i hi _ => getLsbD_coarseXIncrement v hi, fineY_verticalIncrement v,
    coarseX_verticalIncrement v, ?bit10, coarseY_verticalIncrement v, ?bit11⟩
  case bit10 => exact (getLsbD_verticalIncrement v (by decide) (by decide)).trans (if_neg (by simp))
  case bit11 => simpa using getLsbD_verticalIncrement v (i := 11) (by decide) (by decide)

/-! ### Rendering and the schedule -/

theorem Ppu.renderingEnabled_iff (p : Ppu) :
    p.renderingEnabled = true ↔ p.mask.getLsbD 3 = true ∨ p.mask.getLsbD 4 = true := by
  rw [Ppu.renderingEnabled, Bool.or_eq_true]
  rfl

theorem Ppu.onVisibleLine_iff (p : Ppu) : p.onVisibleLine = true ↔ p.scanline ≤ 239 := decide_eq_true_iff

theorem isTileFetchCycle_iff (c : Nat) :
    isTileFetchCycle c = true ↔ c % 8 = 0 ∧ (8 ≤ c ∧ c ≤ 256 ∨ 328 ≤ c ∧ c ≤ 336) := by
  rw [isTileFetchCycle, Bool.and_eq_true, Bool.or_eq_true, decide_eq_true_eq, decide_eq_true_eq, decide_eq_true_eq]

theorem SamePorts.renderingEnabled {p q : Ppu} (h : SamePorts p q) : q.renderingEnabled = p.renderingEnabled := by
  rw [Ppu.renderingEnabled, Ppu.showBg, Ppu.showSp, h.mask]
  rfl

/-! ### The work of a dot before the timing engine's -/

/-- The dot's work before the timing engine's own actions: discard, pixel, fetch, sprites (rule R402). -/
def pictureDot (s : State) : State :=
  let u := compositorDot (s.setPpu (fineXDiscard s.ppu))
  u.setPpu (spriteDot (backgroundDot u.ppu))

theorem ppuTick_eq (s : State) :
    ppuTick s = (timingDot (pictureDot s)).setPpu (advanceDot (timingDot (pictureDot s)).ppu) := rfl

theorem compositorDot_samePorts (s : State) : SamePorts s.ppu (compositorDot s).ppu := by
  obtain ⟨q, st, ev, h, -⟩ := compositorDot_frame s
  rw [h]; exact ⟨rfl, rfl, rfl, rfl, rfl, rfl, rfl, rfl, rfl, rfl⟩

theorem fineXDiscard_samePorts (p : Ppu) : SamePorts p (fineXDiscard p) := by
  obtain ⟨q, h⟩ := fineXDiscard_frame p
  rw [h]; exact ⟨rfl, rfl, rfl, rfl, rfl, rfl, rfl, rfl, rfl, rfl⟩

theorem backgroundDot_samePorts (p : Ppu) : SamePorts p (backgroundDot p) := by
  obtain ⟨nt, ab, lo, hi, q, v, h⟩ := backgroundDot_frame p
  rw [h]; exact ⟨rfl, rfl, rfl, rfl, rfl, rfl, rfl, rfl, rfl, rfl⟩

theorem spriteDot_samePorts (p : Ppu) : SamePorts p (spriteDot p) := by
  obtain ⟨m, b, e, st, h, -⟩ := spriteDot_frame p
  rw [h]; exact ⟨rfl, rfl, rfl, rfl, rfl, rfl, rfl, rfl, rfl, rfl⟩

theorem pictureDot_samePorts (s : State) : SamePorts s.ppu (pictureDot s).ppu :=
  (fineXDiscard_samePorts _).trans <| (compositorDot_samePorts (s.setPpu _)).trans <|
    (backgroundDot_samePorts _).trans (spriteDot_samePorts _)

theorem pictureDot_samePosition (s : State) : SamePosition s.ppu (pictureDot s).ppu :=
  (fineXDiscard_samePosition _).trans <| (compositorDot_samePosition (s.setPpu _)).trans <|
    (backgroundDot_samePosition _).trans (spriteDot_samePosition _)

/-- The events of a dot's picture work are the compositor's (rule R527). -/
theorem pictureDot_events (s : State) :
    (pictureDot s).events = (compositorDot (s.setPpu (fineXDiscard s.ppu))).events := rfl

/-! ### Dots at which a unit rests -/

theorem fineXDiscard_eq_self {p : Ppu} (h : ¬ (p.scanline ≤ 239 ∧ p.cycle = 1)) : fineXDiscard p = p :=
  if_neg (by rwa [p.onVisibleLine_iff])

theorem compositorDot_eq_self {s : State} (h : ¬ (s.ppu.scanline ≤ 239 ∧ 1 ≤ s.ppu.cycle ∧ s.ppu.cycle ≤ 256)) :
    compositorDot s = s :=
  if_neg (by rwa [s.ppu.onVisibleLine_iff])

theorem backgroundDot_eq_self {p : Ppu} (h : isTileFetchCycle p.cycle = false) : backgroundDot p = p := by
  rw [backgroundDot, h, Bool.and_false]
  rfl

/-- The sprite unit rests at cycle 1, where it neither clears nor evaluates nor fetches (rules R470, R476). -/
theorem spriteDot_eq_self {p : Ppu} (h : p.cycle = 1) : spriteDot p = p := by
  have hclear : secOamClear p = p := by rw [secOamClear, h]; rfl
  rw [spriteDot, h, hclear]
  exact ite_self p

/-- Cycle 1 below the visible lines leaves the picture alone. -/
theorem pictureDot_eq_self {s : State} (hline : 239 < s.ppu.scanline) (hcycle : s.ppu.cycle = 1) :
    pictureDot s = s := by
  have hdiscard : fineXDiscard s.ppu = s.ppu := fineXDiscard_eq_self (by omega)
  have hpixel : compositorDot s = s := compositorDot_eq_self (by omega)
  have hfetch : backgroundDot s.ppu = s.ppu := backgroundDot_eq_self (by rw [hcycle]; rfl)
  have hself : s.setPpu s.ppu = s := rfl
  rw [pictureDot, hdiscard, hself, hpixel, hfetch, spriteDot_eq_self hcycle, hself]

/-! ### The advance of the counters -/

/-- The one dot an odd frame skips while rendering: the last of the pre-render line (rule R412). -/
def Ppu.SkipsNextDot (p : Ppu) : Prop :=
  p.scanline = 261 ∧ p.cycle = 339 ∧ p.evenFrame = false ∧ p.renderingEnabled = true

theorem advanceDot_within_line {p : Ppu} (hcycle : p.cycle < 340) (hskip : ¬ p.SkipsNextDot) :
    advanceDot p = { p with cycle := p.cycle + 1 } := by
  have hinside : ¬ p.cycle + 1 = 341 := by omega
  simp only [advanceDot, if_neg hinside]
  exact if_neg fun ⟨hline, hnext, hodd, hrender⟩ => hskip ⟨hline, Nat.succ.inj hnext, hodd, hrender⟩

theorem advanceDot_skip {p : Ppu} (hskip : p.SkipsNextDot) :
    advanceDot p = { p with cycle := 0, scanline := 0, evenFrame := true } := by
  obtain ⟨hline, hcycle, hodd, hrender⟩ := hskip
  have hinside : ¬ p.cycle + 1 = 341 := by omega
  simp only [advanceDot, if_neg hinside]
  refine (if_pos ⟨hline, congrArg (· + 1) hcycle, hodd, hrender⟩).trans ?_
  rw [hodd]
  rfl

theorem advanceDot_line_end {p : Ppu} (hline : p.scanline < 261) (hcycle : p.cycle = 340) :
    advanceDot p = { p with cycle := 0, scanline := p.scanline + 1 } := by
  have hend : p.cycle + 1 = 341 := by omega
  have hnotLast : ¬ p.scanline + 1 = 262 := by omega
  simp only [advanceDot, if_pos hend, if_neg hnotLast]
  exact if_neg (by simp)

theorem advanceDot_frame_end {p : Ppu} (hline : p.scanline = 261) (hcycle : p.cycle = 340) :
    advanceDot p = { p with cycle := 0, scanline := 0, evenFrame := !p.evenFrame } := by
  have hend : p.cycle + 1 = 341 := by omega
  have hlast : p.scanline + 1 = 262 := by omega
  simp only [advanceDot, if_pos hend, if_pos hlast]
  exact if_neg (by simp)

/-- A dot ends in the advance of a picture unit at the same position and with the same ports. -/
theorem ppuTick_ppu (s : State) :
    ∃ p : Ppu, (ppuTick s).ppu = advanceDot p ∧ SamePorts s.ppu p ∧ SamePosition s.ppu p := by
  obtain ⟨p, nmi, ev, h, hports, hpos, -⟩ := dotWork_frame s
  exact ⟨p, by rw [ppuTick, h]; rfl, hports, hpos⟩

theorem Ppu.skipsNextDot_congr {p q : Ppu} (hports : SamePorts p q) (hpos : SamePosition p q) :
    q.SkipsNextDot ↔ p.SkipsNextDot := by
  rw [Ppu.SkipsNextDot, hpos.scanline, hpos.cycle, hpos.evenFrame, hports.renderingEnabled]
  rfl

theorem Ppu.skipsNextDot_iff (p : Ppu) :
    p.SkipsNextDot ↔ p.scanline = 261 ∧ p.cycle = 339 ∧ p.evenFrame = false ∧
      (p.mask.getLsbD 3 = true ∨ p.mask.getLsbD 4 = true) := by
  rw [Ppu.SkipsNextDot, p.renderingEnabled_iff]

/-- Settles O31: a dot's work leaves the position alone, so the counters advance from where they were. -/
theorem dotCounters : Obligations.DotCounters := by
  intro s _ _
  obtain ⟨p, hp, hports, hpos⟩ := ppuTick_ppu s
  rw [hp]
  refine ⟨fun hline hcycle hodd hrender => ?skip, fun hline hcycle => ?frameEnd, fun hline hcycle => ?lineEnd,
    fun hcycle hskip => ?within⟩
  case skip =>
    have hskip := (Ppu.skipsNextDot_congr hports hpos).mpr (s.ppu.skipsNextDot_iff.mpr ⟨hline, hcycle, hodd, hrender⟩)
    rw [advanceDot_skip hskip]
    exact ⟨rfl, rfl, rfl⟩
  case frameEnd =>
    rw [advanceDot_frame_end (hpos.scanline.trans hline) (hpos.cycle.trans hcycle)]
    exact ⟨rfl, rfl, congrArg Bool.not hpos.evenFrame⟩
  case lineEnd =>
    rw [advanceDot_line_end (by rwa [hpos.scanline]) (hpos.cycle.trans hcycle)]
    exact ⟨congrArg _ hpos.scanline, rfl, hpos.evenFrame⟩
  case within =>
    rw [← s.ppu.skipsNextDot_iff, ← Ppu.skipsNextDot_congr hports hpos] at hskip
    rw [advanceDot_within_line (by rwa [hpos.cycle]) hskip]
    exact ⟨hpos.scanline, congrArg _ hpos.cycle, hpos.evenFrame⟩

/-! ### The length of a frame -/

/-- The number of dots of the frame (rule R413). -/
def frameDots (p : Ppu) : Nat :=
  if p.evenFrame = false ∧ (p.mask.getLsbD 3 = true ∨ p.mask.getLsbD 4 = true) then 89341 else 89342

theorem frameDots_congr {p q : Ppu} (hmask : q.mask = p.mask) (hparity : q.evenFrame = p.evenFrame) :
    frameDots q = frameDots p := by
  rw [frameDots, hmask, hparity]
  rfl

/-- The skipped dot is the last of a frame that is one dot short. -/
theorem frameDots_cases (p : Ppu) :
    (frameDots p = 89341 ∧ (p.SkipsNextDot ↔ p.scanline = 261 ∧ p.cycle = 339)) ∨
    (frameDots p = 89342 ∧ ¬ p.SkipsNextDot) := by
  rw [p.skipsNextDot_iff, frameDots]
  split
  next h => exact .inl ⟨rfl, fun ⟨hline, hcycle, _⟩ => ⟨hline, hcycle⟩, fun ⟨hline, hcycle⟩ => ⟨hline, hcycle, h⟩⟩
  next h => exact .inr ⟨rfl, fun ⟨_, _, hshort⟩ => h hshort⟩

/-- Before the last dot of the frame, a dot moves one on (rules R401, R412). -/
theorem dotIndex_ppuTick {s : State} (hcycle : s.ppu.cycle ≤ 340) (hmore : dotIndex s + 1 < frameDots s.ppu) :
    dotIndex (ppuTick s) = dotIndex s + 1 ∧ (ppuTick s).ppu.cycle ≤ 340 ∧
      (ppuTick s).ppu.evenFrame = s.ppu.evenFrame := by
  unfold dotIndex at *
  have hframe := frameDots_cases s.ppu
  have hline : s.ppu.scanline ≤ 261 := by omega
  have hskip : ¬ s.ppu.SkipsNextDot := by
    rcases hframe with ⟨hshort, hskip⟩ | ⟨-, hnoSkip⟩
    · rw [hskip]
      omega
    · exact hnoSkip
  rw [s.ppu.skipsNextDot_iff] at hskip
  obtain ⟨-, -, hlineEnd, hwithin⟩ := dotCounters s hcycle hline
  by_cases hend : s.ppu.cycle = 340
  · obtain ⟨hsl, hc, hparity⟩ := hlineEnd (by omega) hend
    exact ⟨by omega, by omega, hparity⟩
  · obtain ⟨hsl, hc, hparity⟩ := hwithin (by omega) hskip
    exact ⟨by omega, by omega, hparity⟩

/-- The last dot of the frame ends it at (0, 0) with the other parity (rule R413). -/
theorem ppuTick_frame_end {s : State} (hcycle : s.ppu.cycle ≤ 340) (hlast : dotIndex s + 1 = frameDots s.ppu) :
    (ppuTick s).ppu.scanline = 0 ∧ (ppuTick s).ppu.cycle = 0 ∧ (ppuTick s).ppu.evenFrame = !s.ppu.evenFrame := by
  unfold dotIndex at hlast
  have hframe := frameDots_cases s.ppu
  have hline : s.ppu.scanline = 261 := by omega
  obtain ⟨hskips, hframeEnd, -, -⟩ := dotCounters s hcycle hline.le
  rcases hframe with ⟨hshort, hskip⟩ | ⟨hlong, -⟩
  · obtain ⟨-, h339, hodd, hrender⟩ := s.ppu.skipsNextDot_iff.mp (hskip.mpr ⟨hline, by omega⟩)
    rw [hodd]
    exact hskips hline h339 hodd hrender
  · exact hframeEnd hline (by omega)

theorem runDots_mask (n : Nat) (s : State) : (runDots n s).ppu.mask = s.ppu.mask := by
  obtain ⟨p, nmi, ev, h, hports, -⟩ := runDots_frame n s
  rw [h]
  exact hports.mask

theorem runDots_succ (n : Nat) (s : State) : runDots (n + 1) s = ppuTick (runDots n s) := runDots_add n 1 s

/-- From (0, 0), `n` dots lead to the dot number `n` of the same frame, up to the last. -/
theorem runDots_within_frame {s : State} (hline : s.ppu.scanline = 0) (hcycle : s.ppu.cycle = 0) :
    ∀ n : Nat, n < frameDots s.ppu →
      dotIndex (runDots n s) = n ∧ (runDots n s).ppu.cycle ≤ 340 ∧ (runDots n s).ppu.evenFrame = s.ppu.evenFrame
  | 0, _ => by
    rw [runDots, dotIndex, hline, hcycle]
    exact ⟨rfl, by decide, rfl⟩
  | n + 1, hn => by
    obtain ⟨hindex, hbound, hparity⟩ := runDots_within_frame hline hcycle n (by omega)
    have hlen := frameDots_congr (runDots_mask n s) hparity
    obtain ⟨hindex', hbound', hparity'⟩ := dotIndex_ppuTick hbound (by omega)
    rw [runDots_succ]
    exact ⟨by omega, hbound', hparity'.trans hparity⟩

/-- Settles O32: the dots of the frame are numbered in order, and the last one ends it. -/
theorem frameLength : Obligations.FrameLength := by
  intro s len hline hcycle hlen
  obtain rfl : len = frameDots s.ppu := hlen
  have hpos : 0 < frameDots s.ppu := by rcases frameDots_cases s.ppu with ⟨h, -⟩ | ⟨h, -⟩ <;> omega
  refine ⟨?_, fun n hn => (runDots_within_frame hline hcycle n hn).1⟩
  obtain ⟨n, hn⟩ := Nat.exists_eq_add_of_lt hpos
  rw [Nat.zero_add] at hn
  obtain ⟨hindex, hbound, hparity⟩ := runDots_within_frame hline hcycle n (by omega)
  have hlast := frameDots_congr (runDots_mask n s) hparity
  rw [hn, runDots_succ, ← hparity]
  exact ppuTick_frame_end hbound (by omega)

/-! ### The vblank and the pre-render dot -/

theorem timingDot_enterVblank {s : State} (hline : s.ppu.scanline = 241) (hcycle : s.ppu.cycle = 1) :
    timingDot s = enterVblank s := by
  simp [timingDot, hline, hcycle]

theorem timingDot_preRenderClear {s : State} (hline : s.ppu.scanline = 261) (hcycle : s.ppu.cycle = 1) :
    timingDot s = preRenderClear s := by
  simp [timingDot, hline, hcycle]

/-- At cycle 1 below the visible lines a dot is the timing engine's action and the advance to cycle 2. -/
theorem ppuTick_of_timingDot {s t : State} (hline : 239 < s.ppu.scanline) (hcycle : s.ppu.cycle = 1)
    (htiming : timingDot s = t) (hkept : t.ppu.cycle = 1) :
    ppuTick s = t.setPpu { t.ppu with cycle := 2 } := by
  have hskip : ¬ t.ppu.SkipsNextDot := fun ⟨_, h339, _⟩ => by omega
  rw [ppuTick_eq, pictureDot_eq_self hline hcycle, htiming, advanceDot_within_line (by omega) hskip, hkept]

/-- Settles O30: nothing of the picture works at cycle 1 of the lines 241 and 261 (rule R402). -/
theorem vblankAndPreRenderDots : Obligations.VblankAndPreRenderDots := by
  refine fun s hcycle => ⟨fun hline => ?vblank, fun hline => ?preRender⟩
  case vblank =>
    have heligible : (if s.ppu.nmiSuppress then s.ppu.nmiEligible else true) =
        (s.ppu.nmiEligible || !s.ppu.nmiSuppress) := by
      cases s.ppu.nmiSuppress <;> simp
    rw [heligible]
    exact ppuTick_of_timingDot (by omega) hcycle (timingDot_enterVblank hline hcycle) hcycle
  case preRender =>
    exact ppuTick_of_timingDot (by omega) hcycle (timingDot_preRenderClear hline hcycle) hcycle

/-! ### What a dot leaves in the scroll register -/

/-- What the background fetch of a dot does to `v` while rendering (rules R441, R449). -/
def Ppu.fetchUpdate (p : Ppu) (v : VramAddr) : VramAddr :=
  if p.onFetchLine ∧ isTileFetchCycle p.cycle then coarseXIncrement v else v

/-- What the timing engine does to `v` at a dot while rendering (rules R405, R406, R411). -/
def Ppu.timingUpdate (p : Ppu) (v : VramAddr) : VramAddr :=
  if p.onFetchLine ∧ p.cycle = 256 then verticalIncrement v
  else if p.onFetchLine ∧ p.cycle = 257 then horizontalReload v p.t
  else if p.scanline = 261 ∧ 280 ≤ p.cycle ∧ p.cycle ≤ 304 then verticalReload v p.t
  else v

theorem Ppu.fetchUpdate_congr {p q : Ppu} (hpos : SamePosition p q) : q.fetchUpdate = p.fetchUpdate := by
  funext v
  rw [Ppu.fetchUpdate, hpos.onFetchLine, hpos.cycle]
  rfl

theorem Ppu.timingUpdate_congr {p q : Ppu} (hports : SamePorts p q) (hpos : SamePosition p q) :
    q.timingUpdate = p.timingUpdate := by
  funext v
  rw [Ppu.timingUpdate, hpos.onFetchLine, hpos.cycle, hpos.scanline, hports.t]
  rfl

theorem backgroundDot_v (p : Ppu) :
    (backgroundDot p).v = if p.renderingEnabled then p.fetchUpdate p.v else p.v := by
  simp only [backgroundDot, Ppu.fetchUpdate, Bool.and_eq_true]
  split
  · rfl
  · exact (ite_self p.v).symm

theorem Ppu.whenRendering_v (p : Ppu) (v : VramAddr) :
    (p.whenRendering v).v = if p.renderingEnabled then v else p.v := by
  unfold Ppu.whenRendering
  split <;> rfl

theorem timingDot_v (s : State) :
    (timingDot s).ppu.v = if s.ppu.renderingEnabled then s.ppu.timingUpdate s.ppu.v else s.ppu.v := by
  unfold timingDot Ppu.timingUpdate
  dsimp only
  split
  · exact Ppu.whenRendering_v _ _
  split
  · exact Ppu.whenRendering_v _ _
  split
  · exact Ppu.whenRendering_v _ _
  split
  · exact (ite_self _).symm
  split <;> exact (ite_self _).symm

theorem pictureDot_v (s : State) :
    (pictureDot s).ppu.v = if s.ppu.renderingEnabled then s.ppu.fetchUpdate s.ppu.v else s.ppu.v := by
  have hports := (fineXDiscard_samePorts s.ppu).trans (compositorDot_samePorts (s.setPpu (fineXDiscard s.ppu)))
  have hpos := (fineXDiscard_samePosition s.ppu).trans (compositorDot_samePosition (s.setPpu (fineXDiscard s.ppu)))
  have hv : (compositorDot (s.setPpu (fineXDiscard s.ppu))).ppu.v = s.ppu.v := by
    obtain ⟨q, hdiscard⟩ := fineXDiscard_frame s.ppu
    obtain ⟨q', st, ev, hpixel, -⟩ := compositorDot_frame (s.setPpu (fineXDiscard s.ppu))
    rw [hpixel, hdiscard]
    rfl
  have hsprite : ∀ p : Ppu, (spriteDot p).v = p.v := fun p => by
    obtain ⟨m, b, e, st, h, -⟩ := spriteDot_frame p
    rw [h]
  rw [pictureDot, State.setPpu_ppu, hsprite, backgroundDot_v, hports.renderingEnabled, Ppu.fetchUpdate_congr hpos, hv]

theorem advanceDot_v (p : Ppu) : (advanceDot p).v = p.v := by
  obtain ⟨c, sl, ef, h⟩ := advanceDot_frame p
  rw [h]

/-- A dot changes `v` only while rendering, first by the fetch and then by the timing engine (rules R402, R404). -/
theorem ppuTick_v (s : State) :
    (ppuTick s).ppu.v =
      if s.ppu.renderingEnabled then s.ppu.timingUpdate (s.ppu.fetchUpdate s.ppu.v) else s.ppu.v := by
  have hports := pictureDot_samePorts s
  rw [ppuTick_eq, State.setPpu_ppu, advanceDot_v, timingDot_v, hports.renderingEnabled,
    Ppu.timingUpdate_congr hports (pictureDot_samePosition s), pictureDot_v]
  split <;> rfl

/-- Bits 4:0 and 10 come from `t`, the others stay (rule R406). -/
theorem getLsbD_horizontalReload (v t : VramAddr) (i : Nat) :
    (horizontalReload v t).getLsbD i = if i ≤ 4 ∨ i = 10 then t.getLsbD i else v.getLsbD i := by
  rcases lt_or_ge i 15 with hi | hi
  · have hmasks : ∀ j < 15, (0x041F : VramAddr).getLsbD j = decide (j ≤ 4 ∨ j = 10) ∧
        (0x7BE0 : VramAddr).getLsbD j = !decide (j ≤ 4 ∨ j = 10) := by decide
    obtain ⟨ht, hv⟩ := hmasks i hi
    rw [horizontalReload, BitVec.getLsbD_or, BitVec.getLsbD_and, BitVec.getLsbD_and, ht, hv]
    split
    next h => simp [h]
    next h => simp [h]
  · simp only [BitVec.getLsbD_of_ge _ i hi, ite_self]

theorem verticalReload_eq_horizontalReload (v t : VramAddr) : verticalReload v t = horizontalReload t v :=
  BitVec.or_comm _ _

/-- Bits 9:5 and 14:11 come from `t`, the others stay (rule R411). -/
theorem getLsbD_verticalReload (v t : VramAddr) (i : Nat) :
    (verticalReload v t).getLsbD i = if 5 ≤ i ∧ i ≠ 10 then t.getLsbD i else v.getLsbD i := by
  rw [verticalReload_eq_horizontalReload, getLsbD_horizontalReload, ← ite_not]
  exact if_congr (by omega) rfl rfl

/-! ### The dots of the scroll schedule -/

theorem Ppu.fetchUpdate_of_fetch {p : Ppu} {v : VramAddr} (hline : p.scanline ≤ 239 ∨ p.scanline = 261)
    (hcycle : p.cycle % 8 = 0 ∧ (8 ≤ p.cycle ∧ p.cycle ≤ 256 ∨ 328 ≤ p.cycle ∧ p.cycle ≤ 336)) :
    p.fetchUpdate v = coarseXIncrement v :=
  if_pos ⟨p.onFetchLine_iff.mpr hline, (isTileFetchCycle_iff _).mpr hcycle⟩

theorem Ppu.fetchUpdate_eq_self {p : Ppu} {v : VramAddr}
    (h : ¬ ((p.scanline ≤ 239 ∨ p.scanline = 261) ∧
      p.cycle % 8 = 0 ∧ (8 ≤ p.cycle ∧ p.cycle ≤ 256 ∨ 328 ≤ p.cycle ∧ p.cycle ≤ 336))) :
    p.fetchUpdate v = v :=
  if_neg (by rwa [p.onFetchLine_iff, isTileFetchCycle_iff])

theorem Ppu.timingUpdate_eq_self {p : Ppu} {v : VramAddr}
    (hend : ¬ ((p.scanline ≤ 239 ∨ p.scanline = 261) ∧ (p.cycle = 256 ∨ p.cycle = 257)))
    (hreload : ¬ (p.scanline = 261 ∧ 280 ≤ p.cycle ∧ p.cycle ≤ 304)) : p.timingUpdate v = v := by
  rw [← p.onFetchLine_iff] at hend
  rw [Ppu.timingUpdate, if_neg fun h => hend ⟨h.1, .inl h.2⟩, if_neg fun h => hend ⟨h.1, .inr h.2⟩, if_neg hreload]

theorem Ppu.timingUpdate_lineEnd {p : Ppu} {v : VramAddr} (hline : p.scanline ≤ 239 ∨ p.scanline = 261)
    (hcycle : p.cycle = 256) : p.timingUpdate v = verticalIncrement v :=
  if_pos ⟨p.onFetchLine_iff.mpr hline, hcycle⟩

theorem Ppu.timingUpdate_horizontal {p : Ppu} {v : VramAddr} (hline : p.scanline ≤ 239 ∨ p.scanline = 261)
    (hcycle : p.cycle = 257) : p.timingUpdate v = horizontalReload v p.t := by
  rw [Ppu.timingUpdate, if_neg (by omega), if_pos ⟨p.onFetchLine_iff.mpr hline, hcycle⟩]

theorem Ppu.timingUpdate_vertical {p : Ppu} {v : VramAddr} (hline : p.scanline = 261) (hlo : 280 ≤ p.cycle)
    (hhi : p.cycle ≤ 304) : p.timingUpdate v = verticalReload v p.t := by
  rw [Ppu.timingUpdate, if_neg (by omega), if_neg (by omega), if_pos ⟨hline, hlo, hhi⟩]

/-- Settles O29: the fetch and the timing engine act on `v` at different dots but for cycle 256. -/
theorem scrollUpdatesOfADot : Obligations.ScrollUpdatesOfADot := by
  refine fun s => ⟨fun hrest => ?rest, fun hline hrender => ?_⟩
  case rest =>
    rw [ppuTick_v]
    split
    next hrender =>
      rw [s.ppu.renderingEnabled_iff] at hrender
      have hidle : ¬ (s.ppu.scanline ≤ 239 ∨ s.ppu.scanline = 261) := by
        rcases hrest with hbelow | ⟨hbg, hsp⟩
        · omega
        · rw [hbg, hsp] at hrender
          exact absurd hrender (by decide)
      rw [Ppu.fetchUpdate_eq_self (fun h => hidle h.1),
        Ppu.timingUpdate_eq_self (fun h => hidle h.1) (fun h => hidle (.inr h.1))]
    next => rfl
  rw [ppuTick_v, if_pos (s.ppu.renderingEnabled_iff.mpr hrender)]
  refine ⟨fun hc => ?lastFetch, fun h8 hlo hhi => ?visibleFetch, fun hc => ?nextLineFetch, fun hc i => ?horizontal,
    fun hpre hlo hhi i => ?vertical, fun hfetch h257 h328 h336 hreload => ?rest⟩
  case lastFetch => rw [Ppu.fetchUpdate_of_fetch hline (by omega), Ppu.timingUpdate_lineEnd hline hc]
  case visibleFetch | nextLineFetch =>
    rw [Ppu.fetchUpdate_of_fetch hline (by omega), Ppu.timingUpdate_eq_self (by omega) (by omega)]
  case horizontal =>
    rw [Ppu.fetchUpdate_eq_self (by omega), Ppu.timingUpdate_horizontal hline hc, getLsbD_horizontalReload]
  case vertical =>
    rw [Ppu.fetchUpdate_eq_self (by omega), Ppu.timingUpdate_vertical hpre hlo hhi, getLsbD_verticalReload]
  case rest => rw [Ppu.fetchUpdate_eq_self (by omega), Ppu.timingUpdate_eq_self (by omega) hreload]

/-! ### The pixel of a visible dot -/

/-- The palette address of a background value, in integers (rule R521). -/
theorem bgPaletteAddr_eq : ∀ bg : Nibble, bgPaletteAddr bg = BitVec.ofNat 16 (0x3F00 + bg.toNat) := by decide

/-- The palette address of a sprite pixel, in integers (rule R521). -/
theorem spritePaletteAddr_eq (e : SpritePixel) :
    spritePaletteAddr e = BitVec.ofNat 16 (0x3F10 + 4 * e.palette.toNat + e.color.toNat) := by
  have hall : ∀ palette color : BitVec 2,
      (0x3F10 ||| (palette.setWidth 16 <<< 2) ||| color.setWidth 16 : Word) =
        BitVec.ofNat 16 (0x3F10 + 4 * palette.toNat + color.toNat) := by decide
  exact hall e.palette e.color

/-- The background value after enable and clip (rules R520, R522, R523). -/
theorem Ppu.bgValue_toNat (p : Ppu) (col : Nat) (bg : Nibble) :
    (p.bgValue col bg).toNat =
      if p.mask.getLsbD 3 = true ∧ ¬ (col < 8 ∧ p.mask.getLsbD 1 = false) then bg.toNat else 0 := by
  have hshow : p.showBg = p.mask.getLsbD 3 := rfl
  have hclip : p.bgLeft = p.mask.getLsbD 1 := rfl
  unfold Ppu.bgValue
  rw [hshow, hclip]
  generalize p.mask.getLsbD 3 = shown
  generalize p.mask.getLsbD 1 = left
  cases shown with
  | false => rfl
  | true =>
    by_cases hclipped : col < 8 ∧ left = false
    · rw [if_neg (by decide), if_pos hclipped, if_neg fun h => h.2 hclipped]
      rfl
    · rw [if_neg (by decide), if_neg hclipped, if_pos ⟨rfl, hclipped⟩]

/-- A sprite pixel is opaque after enable and clip (rules R520, R522, R523). -/
theorem Ppu.spriteOpaque_iff (p : Ppu) (col : Nat) (e : SpritePixel) :
    p.spriteOpaque col e = true ↔
      e.color ≠ 0 ∧ p.mask.getLsbD 4 = true ∧ ¬ (col < 8 ∧ p.mask.getLsbD 2 = false) := by
  have hshow : p.showSp = p.mask.getLsbD 4 := rfl
  have hclip : p.spLeft = p.mask.getLsbD 2 := rfl
  unfold Ppu.spriteOpaque
  rw [hshow, hclip]
  generalize p.mask.getLsbD 4 = shown
  generalize p.mask.getLsbD 2 = left
  by_cases hcol : col < 8
  · simp [hcol, and_assoc]
  · simp [hcol]

/-- The priority table in integers (rule R524): an opaque sprite pixel shows unless it is behind an opaque background. -/
theorem paletteAddr_eq (bg : Nibble) (spOpaque : Bool) (e : SpritePixel) :
    paletteAddr bg spOpaque e = BitVec.ofNat 16
      (if spOpaque = true ∧ (bg.toNat = 0 ∨ e.priority = false) then 0x3F10 + 4 * e.palette.toNat + e.color.toNat
        else 0x3F00 + bg.toNat) := by
  have hzero : bg.toNat = 0 ↔ bg = 0 := BitVec.toNat_inj (y := 0)
  rw [apply_ite (BitVec.ofNat 16), ← bgPaletteAddr_eq, ← spritePaletteAddr_eq]
  simp only [hzero]
  unfold paletteAddr
  by_cases hbg : bg = 0
  · subst hbg
    cases spOpaque <;> simp [bgPaletteAddr]
  · rw [if_neg hbg]
    cases spOpaque with
    | false => simp
    | true =>
      simp only [hbg, false_or, true_and, if_true]
      cases e.priority <;> rfl

theorem fineXDiscard_of_visible {p : Ppu} (hline : p.scanline ≤ 239) :
    fineXDiscard p = { p with bgQueue := if p.cycle = 1 then p.bgQueue.drop p.fineX.toNat else p.bgQueue } := by
  unfold fineXDiscard
  by_cases hcycle : p.cycle = 1
  · rw [if_pos ⟨p.onVisibleLine_iff.mpr hline, hcycle⟩, if_pos hcycle]
  · rw [if_neg fun h => hcycle h.2, if_neg hcycle]

theorem compositorDot_of_visible {s : State} (hline : s.ppu.scanline ≤ 239) (hlo : 1 ≤ s.ppu.cycle)
    (hhi : s.ppu.cycle ≤ 256) : compositorDot s = composePixel (s.ppu.cycle - 1) s :=
  if_pos ⟨s.ppu.onVisibleLine_iff.mpr hline, hlo, hhi⟩

/-- Only the vblank dot of the timing engine emits events, the frame strobe (rule R409). -/
theorem timingDot_events (s : State) :
    (timingDot s).events =
      if s.ppu.scanline = 241 ∧ s.ppu.cycle = 1 then [.resetRead, .clearBuffer, .updateScreen] ++ s.events
      else s.events := by
  split
  next h => rw [timingDot_enterVblank h.1 h.2]; rfl
  next h =>
    rcases timingDot_cases s with ⟨v, q, ht⟩ | ⟨-, hline, hcycle⟩ | ⟨ht, -, -⟩
    · rw [ht]; rfl
    · exact absurd ⟨hline, hcycle⟩ h
    · rw [ht]; rfl

/-- The events of a dot are the compositor's pixel or the frame strobe (rules R409, R527). -/
theorem ppuTick_events (s : State) :
    (ppuTick s).events =
      if s.ppu.scanline = 241 ∧ s.ppu.cycle = 1 then
        [.resetRead, .clearBuffer, .updateScreen] ++ (compositorDot (s.setPpu (fineXDiscard s.ppu))).events
      else (compositorDot (s.setPpu (fineXDiscard s.ppu))).events := by
  obtain ⟨hcycle, hline, -⟩ := pictureDot_samePosition s
  rw [ppuTick_eq, State.setPpu_events, timingDot_events, hcycle, hline, pictureDot_events]

/-- The pixel event of a column: its row, the byte at the priority table's address, and the mask (rules R524, R527). -/
theorem composePixel_events (col : Nat) (s : State) :
    let p := s.ppu
    let e := p.spriteAt col
    let bg := if p.mask.getLsbD 3 = true ∧ ¬ (col < 8 ∧ p.mask.getLsbD 1 = false) then (p.bgQueue.headD 0).toNat else 0
    let sp := e.color ≠ 0 ∧ p.mask.getLsbD 4 = true ∧ ¬ (col < 8 ∧ p.mask.getLsbD 2 = false)
    let addr : Nat :=
      if sp ∧ (bg = 0 ∨ e.priority = false) then 0x3F10 + 4 * e.palette.toNat + e.color.toNat else 0x3F00 + bg
    (composePixel col s).events = .drawPixel col p.scanline (p.read (BitVec.ofNat 16 addr)) p.mask :: s.events := by
  have haddr := paletteAddr_eq (s.ppu.bgValue col (s.ppu.bgQueue.headD 0))
    (s.ppu.spriteOpaque col (s.ppu.spriteAt col)) (s.ppu.spriteAt col)
  simp only [Ppu.spriteOpaque_iff, Ppu.bgValue_toNat] at haddr
  dsimp only
  rw [← haddr]
  rfl

/-- Settles O38: the fine-X discard changes the queue alone, so the pixel is that of the dot's own picture unit. -/
theorem onePixelPerVisibleDot : Obligations.OnePixelPerVisibleDot := by
  refine fun s => ⟨fun hline hlo hhi => ?visible, fun hhidden => ?hidden⟩
  case visible =>
    have hpixel : compositorDot (s.setPpu (fineXDiscard s.ppu)) =
        composePixel (s.ppu.cycle - 1) (s.setPpu (fineXDiscard s.ppu)) := by
      rw [fineXDiscard_of_visible hline]
      exact compositorDot_of_visible hline hlo hhi
    rw [ppuTick_events, if_neg (by omega), hpixel, fineXDiscard_of_visible hline]
    exact composePixel_events (s.ppu.cycle - 1) _
  case hidden =>
    have hpixel : (compositorDot (s.setPpu (fineXDiscard s.ppu))).events = s.events := by
      rw [fineXDiscard_eq_self (by omega)]
      exact congrArg State.events (compositorDot_eq_self hhidden)
    rw [ppuTick_events, hpixel]
    split
    · exact .inr rfl
    · exact .inl rfl

end Sys2Proof.Machine

/-! The statements about the NMI entry (spec/60_exceptions.md) and the background tile fetch (spec/47_ppu_background.md): the
entry is the exception entry BRK shares, and the addresses of a fetch, which the model builds from bit fields, are sums in
integers. -/

namespace Sys2Proof.Machine

/-! ### NMI entry -/

theorem nmiCondition_of {s : State} (hvblank : s.ppu.status.getLsbD 7 = true) (henable : s.ppu.ctrl.getLsbD 7 = true)
    (heligible : s.ppu.nmiEligible = true) (hfresh : s.nmiServiced = false) : nmiCondition s = true := by
  have hstatus : s.ppu.vblank = true := hvblank
  have hctrl : s.ppu.nmiEnable = true := henable
  rw [nmiCondition, hstatus, hctrl, heligible, hfresh]
  rfl

/-- What the NMI entry changes: the stack page, `SP`, the flag `I`, `PC`, the NMI latch and the cycles (rule R556). -/
theorem nmiEntry_frame (s : State) :
    ∃ (m : Memory) (pc : Word),
      nmiEntry s = { s with
        cpuMem := m, sp := s.sp - 3, flags := { s.flags with i := true }, pc := pc, nmiServiced := true
        cycles := s.cycles + 7 } := by
  have hthree : s.sp - 3 = s.sp - 1 - 1 - 1 := by bv_omega
  rw [hthree]
  exact ⟨_, _, rfl⟩

/-- The NMI vector is read as it stood before the pushes (rules R100, R556). -/
theorem nmiEntry_pc (s : State) : (nmiEntry s).pc = peek s 0xFFFB ++ peek s 0xFFFA := by
  have hentry : (nmiEntry s).pc = (enterInterrupt s.pc (statusByte s.flags) 0xFFFA s).pc := rfl
  rw [hentry, enterInterrupt_pc _ _ _ (by decide) (by decide), peek_of_flat s (by decide), peek_of_flat s (by decide)]
  rfl

/-- The bytes the NMI entry pushes (rule R556). -/
theorem nmiEntry_read (s : State) (k : Nat) :
    (nmiEntry s).cpuMem.read k =
      if k = 0x100 + s.sp.toNat then hi8 s.pc
      else if k = 0x100 + (s.sp - 1).toNat then lo8 s.pc
      else if k = 0x100 + (s.sp - 2).toNat then statusByte s.flags
      else s.cpuMem.read k :=
  enterInterrupt_read_in_push_order s.pc (statusByte s.flags) 0xFFFA s k

/-- Settles O7: the exception entry of rule R556, then the 21 dots of its seven cycles. -/
theorem nmiEntryStep : Obligations.NmiEntryStep := by
  intro s hvblank henable heligible hfresh
  have hdue : nmiCondition (beginStep s) = true := nmiCondition_of hvblank henable heligible hfresh
  have hstep := step_nmi s hdue
  have hpc := nmiEntry_pc (beginStep s)
  have hread := nmiEntry_read (beginStep s)
  obtain ⟨m, pc, hframe⟩ := nmiEntry_frame (beginStep s)
  rw [hframe] at hstep hpc hread
  exact ⟨_, hstep, hpc, rfl, rfl, rfl, rfl, rfl, rfl, rfl, rfl, rfl, rfl, rfl, hread⟩

/-! ### The addresses of a tile fetch -/

/-- Bit fields that lie apart make a sum. -/
theorem ofNat_or_ofNat {m k : Nat} (a : Nat) (hm : m < 2 ^ k) :
    BitVec.ofNat 16 (2 ^ k * a) ||| BitVec.ofNat 16 m = BitVec.ofNat 16 (2 ^ k * a + m) := by
  rw [Nat.two_pow_add_eq_or_of_lt hm, BitVec.ofNat_or]

/-- A pattern address (rules R445, R495): the table, the tile row of sixteen bytes and the byte in it. -/
theorem patternFields_eq (table : Bool) {n m : Nat} (hn : n < 256) (hm : m < 16) :
    (BitVec.ofNat 16 (if table then 0x1000 else 0) ||| BitVec.ofNat 16 (n * 16) ||| BitVec.ofNat 16 m : Word) =
      BitVec.ofNat 16 ((if table then 0x1000 else 0) + n * 16 + m) := by
  have htable : (if table then 0x1000 else 0) = 2 ^ 12 * table.toNat := by cases table <;> rfl
  have hfields : 2 ^ 12 * table.toNat + n * 16 = 2 ^ 4 * (2 ^ 8 * table.toNat + n) := by omega
  rw [htable, ofNat_or_ofNat _ (by omega), hfields, ofNat_or_ofNat _ (by omega)]

theorem byte_shiftLeft_four (b : Byte) : (b.setWidth 16 <<< 4 : Word) = BitVec.ofNat 16 (b.toNat * 16) := by
  refine BitVec.eq_of_toNat_eq ?_
  have hb := b.isLt
  rw [BitVec.toNat_shiftLeft, BitVec.toNat_setWidth, BitVec.toNat_ofNat, Nat.shiftLeft_eq]
  omega

theorem fineY_toNat (v : VramAddr) : (fineY v).toNat = v.toNat / 0x1000 := by
  have hv := v.isLt
  rw [fineY, BitVec.extractLsb'_toNat, Nat.shiftRight_eq_div_pow]
  omega

theorem patternAddr_eq (bgTable : Bool) (nt : Byte) (v : VramAddr) :
    patternAddr bgTable nt v =
      BitVec.ofNat 16 ((if bgTable then 0x1000 else 0) + nt.toNat * 16 + v.toNat / 0x1000) := by
  have hv := v.isLt
  have hrow : (fineY v).setWidth 16 = BitVec.ofNat 16 (v.toNat / 0x1000) := by
    rw [← fineY_toNat, BitVec.ofNat_toNat]
  rw [patternAddr, byte_shiftLeft_four, hrow]
  exact patternFields_eq _ nt.isLt (by omega)

theorem ntAddr_eq (v : VramAddr) : ntAddr v = BitVec.ofNat 16 (0x2000 + v.toNat % 0x1000) := by
  have hv := v.isLt
  have hlow : (v.setWidth 16 &&& 0x0FFF : Word) = BitVec.ofNat 16 (v.toNat % 0x1000) := by
    refine BitVec.eq_of_toNat_eq ?_
    rw [toNat_and_lowMask _ 12 rfl, BitVec.toNat_setWidth, BitVec.toNat_ofNat]
    omega
  rw [ntAddr, hlow]
  exact ofNat_or_ofNat (k := 12) 2 (by omega)

/-- The address of a palette block from its fields: nametable, row and column (rule R443). -/
theorem attrFields_eq (nt : BitVec 2) (row col : BitVec 3) :
    ((0x23C0 : Word) ||| nt.setWidth 16 <<< 10 ||| row.setWidth 16 <<< 3 ||| col.setWidth 16) =
      BitVec.ofNat 16 (0x23C0 + nt.toNat * 0x400 + row.toNat * 8 + col.toNat) := by
  decide +revert

theorem attrAddr_eq (v : VramAddr) :
    attrAddr v =
      BitVec.ofNat 16 (0x23C0 + v.toNat / 0x400 % 4 * 0x400 + v.toNat / 128 % 8 * 8 + v.toNat / 4 % 8) := by
  have hnt : (v.setWidth 16 &&& 0x0C00 : Word) = (v.extractLsb' 10 2).setWidth 16 <<< 10 := by
    ext i hi
    interval_cases i <;> simp
  have hrow : (v.setWidth 16 >>> 4 &&& 0x38 : Word) = (v.extractLsb' 7 3).setWidth 16 <<< 3 := by
    ext i hi
    interval_cases i <;> simp
  have hcol : (v.setWidth 16 >>> 2 &&& 0x07 : Word) = (v.extractLsb' 2 3).setWidth 16 := by
    ext i hi
    interval_cases i <;> simp
  have hmasks : attrAddr v = (0x23C0 : Word) ||| (v.setWidth 16 &&& (0x0C00 : Word)) |||
      (v.setWidth 16 >>> 4 &&& (0x38 : Word)) ||| (v.setWidth 16 >>> 2 &&& (0x07 : Word)) := rfl
  rw [hmasks, hnt, hrow, hcol, attrFields_eq]
  simp only [BitVec.extractLsb'_toNat, Nat.shiftRight_eq_div_pow]

/-- The shift that selects the quadrant of a palette block (rule R444). -/
theorem attrShift_eq (v : VramAddr) : attrShift v = 2 * (v.toNat / 64 % 2 * 2 + v.toNat / 2 % 2) := by
  have hfields : ∀ row col : BitVec 1,
      (row.setWidth 15 <<< 2 ||| col.setWidth 15 <<< 1 : VramAddr).toNat = 2 * (row.toNat * 2 + col.toNat) := by decide
  have hrow : (v >>> 4 &&& 4 : VramAddr) = (v.extractLsb' 6 1).setWidth 15 <<< 2 := by
    ext i hi
    interval_cases i <;> simp
  have hcol : (v &&& 2 : VramAddr) = (v.extractLsb' 1 1).setWidth 15 <<< 1 := by
    ext i hi
    interval_cases i <;> simp
  rw [attrShift, hrow, hcol, hfields, BitVec.extractLsb'_toNat, BitVec.extractLsb'_toNat, Nat.shiftRight_eq_div_pow,
    Nat.shiftRight_eq_div_pow]

theorem attrQuadrant_toNat (b : Byte) (v : VramAddr) :
    ((b >>> attrShift v).setWidth 2 : BitVec 2).toNat =
      b.toNat / 4 ^ (v.toNat / 64 % 2 * 2 + v.toNat / 2 % 2) % 4 := by
  rw [BitVec.toNat_setWidth, BitVec.toNat_ushiftRight, attrShift_eq, Nat.shiftRight_eq_div_pow, Nat.pow_mul]

/-! ### The values of a tile fetch -/

theorem tilePixel_eq (quadrant : BitVec 2) (hi lo : Bool) :
    (quadrant ++ bit1 hi ++ bit1 lo : Nibble) = BitVec.ofNat 4 (4 * quadrant.toNat + 2 * hi.toNat + lo.toNat) := by
  decide +revert

/-- The eight values, the leftmost pixel first (rule R446). -/
theorem tilePixels_eq (quadrant : BitVec 2) (lo hi : Byte) :
    tilePixels quadrant lo hi = (List.range 8).map fun k =>
      BitVec.ofNat 4 (4 * quadrant.toNat + 2 * (hi.getLsbD (7 - k)).toNat + (lo.getLsbD (7 - k)).toNat) := by
  have horder : [7, 6, 5, 4, 3, 2, 1, 0] = (List.range 8).map (7 - ·) := rfl
  simp only [tilePixels, tilePixel_eq]
  rw [horder, List.map_map]
  rfl

theorem backgroundDot_fetch {p : Ppu} (hline : p.scanline ≤ 239 ∨ p.scanline = 261)
    (hcycle : isTileFetchCycle p.cycle = true) : backgroundDot p = tileFetch p :=
  if_pos (by rw [p.onFetchLine_iff.mpr hline, hcycle]; rfl)

/-- Settles O33: the fetch's addresses and values in integers, and the dots at which it happens. -/
theorem tileFetchOfADot : Obligations.TileFetch := by
  refine fun p => ⟨fun hline hmod hrange => ?fetch, fun hrest => ?rest⟩
  case fetch =>
    have htable : p.bgTable = p.ctrl.getLsbD 4 := rfl
    have hhigh : ∀ row : Nat, (BitVec.ofNat 16 row + 8 : Word) = BitVec.ofNat 16 (row + 8) := fun row =>
      (BitVec.ofNat_add row 8).symm
    rw [backgroundDot_fetch hline ((isTileFetchCycle_iff _).mpr ⟨hmod, hrange⟩)]
    simp only [tileFetch, tilePixels_eq, attrQuadrant_toNat, ntAddr_eq, attrAddr_eq, patternAddr_eq, htable, hhigh]
  case rest =>
    refine if_neg fun hfetch => ?_
    rw [Bool.and_eq_true, p.onFetchLine_iff, isTileFetchCycle_iff] at hfetch
    omega

end Sys2Proof.Machine

/-! The statements about the sprite unit (spec/48_ppu_sprites.md): one rule for each of its windows, and that a whole dot leaves
in secondary OAM, in the evaluator and in the sprite pixel buffer what the sprite unit alone leaves there. -/

namespace Sys2Proof.Machine

/-! ### The windows of the sprite unit -/

theorem spriteDot_of_idle_line {p : Ppu} (hline : ¬ (p.scanline ≤ 239 ∨ p.scanline = 261)) : spriteDot p = p := by
  have hfetch : p.onFetchLine = false := by rwa [← Bool.not_eq_true, p.onFetchLine_iff]
  rw [spriteDot, hfetch]
  rfl

section FetchLine

variable {p : Ppu} (hline : p.scanline ≤ 239 ∨ p.scanline = 261)
include hline

/-- On a fetch line the work of a dot depends on its cycle alone (rule R470). -/
theorem spriteDot_of_fetch_line :
    spriteDot p =
      if 1 ≤ p.cycle ∧ p.cycle ≤ 64 then secOamClear p
      else if 65 ≤ p.cycle ∧ p.cycle ≤ 256 then evalDot p
      else if p.cycle = 257 then latchSprites p
      else if 264 ≤ p.cycle ∧ p.cycle ≤ 320 ∧ p.cycle % 8 = 0 then fetchSlot ((p.cycle - 264) / 8) p
      else p := by
  rw [spriteDot, p.onFetchLine_iff.mpr hline]
  rfl

theorem spriteDot_clear (hlo : 1 ≤ p.cycle) (hhi : p.cycle ≤ 64) : spriteDot p = secOamClear p := by
  rw [spriteDot_of_fetch_line hline, if_pos ⟨hlo, hhi⟩]

theorem spriteDot_eval (hlo : 65 ≤ p.cycle) (hhi : p.cycle ≤ 256) : spriteDot p = evalDot p := by
  rw [spriteDot_of_fetch_line hline, if_neg (by omega), if_pos ⟨hlo, hhi⟩]

theorem spriteDot_latch (hcycle : p.cycle = 257) : spriteDot p = latchSprites p := by
  rw [spriteDot_of_fetch_line hline, if_neg (by omega), if_neg (by omega), if_pos hcycle]

theorem spriteDot_fetch {k : Nat} (hk : k < 8) (hcycle : p.cycle = 264 + 8 * k) : spriteDot p = fetchSlot k p := by
  have hslot : (p.cycle - 264) / 8 = k := by omega
  rw [spriteDot_of_fetch_line hline, if_neg (by omega), if_neg (by omega), if_neg (by omega), if_pos (by omega), hslot]

end FetchLine

/-! ### A dot as the sprite unit sees it -/

/-- The part of the picture unit that the sprite unit works on, but for PPUSTATUS, is the same in `q` as in `p`. -/
structure SameSprites (p q : Ppu) : Prop where
  ports : SamePorts p q
  position : SamePosition p q
  secOam : q.secOam = p.secOam
  spriteBuf : q.spriteBuf = p.spriteBuf
  eval : q.eval = p.eval

theorem SameSprites.trans {p q r : Ppu} (h : SameSprites p q) (k : SameSprites q r) : SameSprites p r :=
  ⟨h.ports.trans k.ports, h.position.trans k.position, k.secOam.trans h.secOam, k.spriteBuf.trans h.spriteBuf,
    k.eval.trans h.eval⟩


theorem SameSprites.secOamRead {p q : Ppu} (h : SameSprites p q) : q.secOamRead = p.secOamRead := by
  funext k
  rw [Ppu.secOamRead, h.secOam]
  rfl

theorem fineXDiscard_sameSprites (p : Ppu) : SameSprites p (fineXDiscard p) := by
  obtain ⟨q, h⟩ := fineXDiscard_frame p
  exact ⟨fineXDiscard_samePorts p, fineXDiscard_samePosition p, by rw [h], by rw [h], by rw [h]⟩

theorem compositorDot_sameSprites (s : State) : SameSprites s.ppu (compositorDot s).ppu := by
  obtain ⟨q, st, ev, h, -⟩ := compositorDot_frame s
  exact ⟨compositorDot_samePorts s, compositorDot_samePosition s, by rw [h], by rw [h], by rw [h]⟩

theorem backgroundDot_sameSprites (p : Ppu) : SameSprites p (backgroundDot p) := by
  obtain ⟨nt, ab, lo, hi, q, v, h⟩ := backgroundDot_frame p
  exact ⟨backgroundDot_samePorts p, backgroundDot_samePosition p, by rw [h], by rw [h], by rw [h]⟩

/-- The picture unit as the sprite unit of a dot finds it: after the discard, the pixel and the fetch (rule R402). -/
def spriteInput (s : State) : Ppu :=
  backgroundDot (compositorDot (s.setPpu (fineXDiscard s.ppu))).ppu

theorem pictureDot_ppu (s : State) : (pictureDot s).ppu = spriteDot (spriteInput s) := rfl

theorem spriteInput_sameSprites (s : State) : SameSprites s.ppu (spriteInput s) :=
  (fineXDiscard_sameSprites _).trans ((compositorDot_sameSprites (s.setPpu _)).trans (backgroundDot_sameSprites _))

/-- The timing engine leaves the sprite unit's own state alone. -/
theorem timingDot_sprites (s : State) :
    (timingDot s).ppu.secOam = s.ppu.secOam ∧ (timingDot s).ppu.spriteBuf = s.ppu.spriteBuf ∧
      (timingDot s).ppu.eval = s.ppu.eval := by
  rcases timingDot_cases s with ⟨v, q, h⟩ | ⟨h, -, -⟩ | ⟨h, -, -⟩ <;> rw [h] <;> exact ⟨rfl, rfl, rfl⟩

theorem advanceDot_sprites (p : Ppu) :
    (advanceDot p).secOam = p.secOam ∧ (advanceDot p).spriteBuf = p.spriteBuf ∧ (advanceDot p).eval = p.eval := by
  obtain ⟨c, sl, ef, h⟩ := advanceDot_frame p
  rw [h]
  exact ⟨rfl, rfl, rfl⟩

/-- A dot leaves in the sprite unit's own state what the sprite unit leaves there. -/
theorem ppuTick_sprites (s : State) :
    (ppuTick s).ppu.secOam = (spriteDot (spriteInput s)).secOam ∧
      (ppuTick s).ppu.spriteBuf = (spriteDot (spriteInput s)).spriteBuf ∧
      (ppuTick s).ppu.eval = (spriteDot (spriteInput s)).eval := by
  obtain ⟨hsec, hbuf, heval⟩ := advanceDot_sprites (timingDot (pictureDot s)).ppu
  obtain ⟨hsec', hbuf', heval'⟩ := timingDot_sprites (pictureDot s)
  exact ⟨hsec.trans hsec', hbuf.trans hbuf', heval.trans heval'⟩

/-! ### The clear window -/

/-- The clear window writes byte `k` at cycle `2k + 2` (rule R476). -/
theorem secOamClear_read {p : Ppu} (hlo : 1 ≤ p.cycle) (k : Nat) :
    (secOamClear p).secOamRead k = if p.cycle = 2 * k + 2 then 0xFF else p.secOamRead k := by
  unfold secOamClear
  split
  next heven =>
    have hindex : k = p.cycle / 2 - 1 ↔ p.cycle = 2 * k + 2 := by omega
    refine (Cells.read_write secOamFill p.secOam (p.cycle / 2 - 1) k 0xFF).trans ?_
    simp only [hindex]
    rfl
  next hodd => rw [if_neg (by omega)]

theorem ppuTick_position_within_line {s : State} (hcycle : s.ppu.cycle < 339) :
    (ppuTick s).ppu.cycle = s.ppu.cycle + 1 ∧ (ppuTick s).ppu.scanline = s.ppu.scanline := by
  obtain ⟨p, hp, -, hpos⟩ := ppuTick_ppu s
  have hc := hpos.cycle
  have hskip : ¬ p.SkipsNextDot := fun ⟨_, hlast, _⟩ => by omega
  rw [hp, advanceDot_within_line (by omega) hskip]
  exact ⟨congrArg (· + 1) hc, hpos.scanline⟩

/-- A dot at cycles 0 to 64 of a fetch line clears the byte whose turn it is (rules R470, R476). -/
theorem ppuTick_secOamRead_clear {s : State} (hline : s.ppu.scanline ≤ 239 ∨ s.ppu.scanline = 261)
    (hcycle : s.ppu.cycle ≤ 64) (k : Nat) :
    (ppuTick s).ppu.secOamRead k = if s.ppu.cycle = 2 * k + 2 then 0xFF else s.ppu.secOamRead k := by
  have hsame := spriteInput_sameSprites s
  have hsec : (ppuTick s).ppu.secOamRead k = (spriteDot (spriteInput s)).secOamRead k :=
    congrArg (Cells.read secOamFill · k) (ppuTick_sprites s).1
  rw [← hsame.secOamRead, ← hsame.position.cycle, hsec]
  rw [← hsame.position.cycle] at hcycle
  rw [← hsame.position.scanline] at hline
  by_cases hlo : 1 ≤ (spriteInput s).cycle
  · rw [spriteDot_clear hline hlo hcycle, secOamClear_read hlo]
  · rw [spriteDot_of_fetch_line hline, if_neg (by omega), if_neg (by omega), if_neg (by omega), if_neg (by omega),
      if_neg (by omega)]

/-- After `n` dots from cycle 0 of a fetch line, the bytes whose turn has come are cleared. -/
theorem runDots_clear_window {s : State} (hline : s.ppu.scanline ≤ 239 ∨ s.ppu.scanline = 261)
    (hcycle : s.ppu.cycle = 0) :
    ∀ n ≤ 65, (runDots n s).ppu.cycle = n ∧ (runDots n s).ppu.scanline = s.ppu.scanline ∧
      ∀ k, 2 * k + 2 < n → (runDots n s).ppu.secOamRead k = 0xFF
  | 0, _ => ⟨hcycle, rfl, fun k hk => absurd hk (by omega)⟩
  | n + 1, hn => by
    obtain ⟨hc, hl, hclear⟩ := runDots_clear_window hline hcycle n (by omega)
    obtain ⟨hc', hl'⟩ := ppuTick_position_within_line (s := runDots n s) (by omega)
    rw [runDots_succ]
    refine ⟨by omega, hl'.trans hl, fun k hk => ?_⟩
    rw [ppuTick_secOamRead_clear (by rwa [hl]) (by omega), hc]
    split
    next => rfl
    next hother => exact hclear k (by omega)

/-- Settles O34: after the dot of cycle 64 every byte of secondary OAM has had its turn, and no dot writes primary OAM. -/
theorem secondaryOamIsCleared : Obligations.SecondaryOamIsCleared := by
  intro s hline hcycle
  obtain ⟨p, nmi, ev, hrun, hports, -⟩ := runDots_frame 65 s
  obtain ⟨-, -, hclear⟩ := runDots_clear_window hline hcycle 65 le_rfl
  exact ⟨fun k hk => hclear k (by omega), by rw [hrun]; exact hports.oam⟩


/-! ### The evaluator -/

theorem Ppu.inRange_iff (p : Ppu) (y : Byte) :
    p.inRange y = true ↔
      y.toNat ≤ p.scanline ∧ p.scanline < y.toNat + if p.ctrl.getLsbD 5 then 16 else 8 := by
  rw [Ppu.inRange, Bool.and_eq_true, decide_eq_true_eq, decide_eq_true_eq]
  rfl

/-- The next sprite, or the end after the last of the 64 (rule R478). -/
theorem nextSprite_eq (e : SpriteEval) :
    nextSprite e = { e with
      n := e.n + 1, mode := if e.n.toNat = 63 then .done else if e.count = 8 then .ovf else .y } := by
  have hlast : e.n + 1 = 0 ↔ e.n.toNat = 63 := by bv_omega
  simp only [nextSprite, hlast]

section EvalDots

variable {p : Ppu}

theorem evalDot_start (hcycle : p.cycle = 65) :
    evalDot p = { p with eval := { p.eval with
      n := 0, m := 0, count := 0, sprite0 := false, mode := .y, latch := p.oam.read 0 } } := by
  have hodd : p.cycle % 2 = 1 := by omega
  simp only [evalDot, if_pos hcycle, if_pos hodd]
  rfl

theorem evalDot_read (hstart : p.cycle ≠ 65) (hodd : p.cycle % 2 = 1) : evalDot p = evalRead p := by
  simp only [evalDot, if_neg hstart, if_pos hodd]

theorem evalDot_act (heven : p.cycle % 2 = 0) : evalDot p = evalAct p := by
  have hstart : p.cycle ≠ 65 := by omega
  have hodd : ¬ p.cycle % 2 = 1 := by omega
  simp only [evalDot, if_neg hstart, if_neg hodd]

theorem evalAct_found (hmode : p.eval.mode = .y) (hrange : p.inRange p.eval.latch = true) :
    evalAct p = { secOamWrite (4 * p.eval.count) p.eval.latch p with
      eval := { p.eval with sprite0 := p.eval.sprite0 || decide (p.eval.n = 0), m := 1, mode := .rest } } := by
  simp only [evalAct, hmode, if_pos hrange]

theorem evalAct_passed (hmode : p.eval.mode = .y) (hrange : ¬ p.inRange p.eval.latch = true) :
    evalAct p = { p with eval := nextSprite p.eval } := by
  simp only [evalAct, hmode, if_neg hrange]

theorem evalAct_copied (hmode : p.eval.mode = .rest) (hmore : p.eval.m < 3) :
    evalAct p = { secOamWrite (4 * p.eval.count + p.eval.m.toNat) p.eval.latch p with
      eval := { p.eval with m := p.eval.m + 1 } } := by
  simp only [evalAct, hmode, if_pos hmore]

theorem evalAct_copiedLast (hmode : p.eval.mode = .rest) (hlast : ¬ p.eval.m < 3) :
    evalAct p = { secOamWrite (4 * p.eval.count + p.eval.m.toNat) p.eval.latch p with
      eval := nextSprite { p.eval with m := 0, count := p.eval.count + 1 } } := by
  simp only [evalAct, hmode, if_neg hlast]

theorem evalAct_overflowed (hmode : p.eval.mode = .ovf) (hrange : p.inRange p.eval.latch = true) :
    evalAct p = { p with status := p.status ||| 0x20, eval := { p.eval with mode := .done } } := by
  simp only [evalAct, hmode, if_pos hrange]

theorem evalAct_overflowPassed (hmode : p.eval.mode = .ovf) (hrange : ¬ p.inRange p.eval.latch = true) :
    evalAct p = { p with eval := { p.eval with
      m := p.eval.m + 1, n := p.eval.n + 1, mode := if p.eval.n.toNat = 63 then .done else .ovf } } := by
  have hlast : p.eval.n + 1 = 0 ↔ p.eval.n.toNat = 63 := by bv_omega
  simp only [evalAct, hmode, if_neg hrange, hlast]

theorem evalAct_done (hmode : p.eval.mode = .done) : evalAct p = p := by
  simp only [evalAct, hmode]

end EvalDots

/-- An even evaluation dot sets the overflow bit only in mode OVF on a byte in range (rules R487, R488). -/
theorem evalAct_status (p : Ppu) :
    (evalAct p).status = p.status ∨ p.eval.mode = .ovf ∧ p.inRange p.eval.latch = true := by
  cases hmode : p.eval.mode with
  | ovf =>
    by_cases hrange : p.inRange p.eval.latch = true
    · exact .inr ⟨rfl, hrange⟩
    · exact .inl (by rw [evalAct_overflowPassed hmode hrange])
  | y =>
    by_cases hrange : p.inRange p.eval.latch = true
    · exact .inl (by rw [evalAct_found hmode hrange]; rfl)
    · exact .inl (by rw [evalAct_passed hmode hrange])
  | rest =>
    by_cases hmore : p.eval.m < 3
    · exact .inl (by rw [evalAct_copied hmode hmore]; rfl)
    · exact .inl (by rw [evalAct_copiedLast hmode hmore]; rfl)
  | done => exact .inl (by rw [evalAct_done hmode])

/-- What a dot needs to set the overflow bit (rules R477, R478, R487). -/
def Ppu.FindsOverflow (p : Ppu) : Prop :=
  (p.scanline ≤ 239 ∨ p.scanline = 261) ∧ 65 ≤ p.cycle ∧ p.cycle ≤ 256 ∧ p.cycle % 2 = 0 ∧ p.eval.mode = .ovf ∧
    p.inRange p.eval.latch = true

theorem evalDot_status (p : Ppu) :
    (evalDot p).status = p.status ∨
      p.cycle % 2 = 0 ∧ p.eval.mode = .ovf ∧ p.inRange p.eval.latch = true := by
  by_cases heven : p.cycle % 2 = 0
  · rw [evalDot_act heven]
    exact (evalAct_status p).imp_right fun hfound => ⟨heven, hfound⟩
  · by_cases hstart : p.cycle = 65
    · exact .inl (by rw [evalDot_start hstart])
    · exact .inl (by rw [evalDot_read hstart (by omega)]; rfl)

theorem spriteDot_status (p : Ppu) : (spriteDot p).status = p.status ∨ p.FindsOverflow := by
  by_cases hline : p.scanline ≤ 239 ∨ p.scanline = 261
  · rw [spriteDot_of_fetch_line hline]
    split
    next => exact .inl (by unfold secOamClear; split <;> rfl)
    split
    next heval =>
      obtain ⟨hlo, hhi⟩ := heval
      exact (evalDot_status p).imp_right fun hfound => ⟨hline, hlo, hhi, hfound⟩
    split
    next => exact .inl rfl
    split
    next =>
      obtain ⟨b, hfetch⟩ := fetchSlot_frame ((p.cycle - 264) / 8) p
      exact .inl (by rw [hfetch])
    next => exact .inl rfl
  · exact .inl (by rw [spriteDot_of_idle_line hline])

/-- Outside its window and the latch the evaluator rests (rules R470, R490). -/
theorem spriteDot_eval_eq_self {p : Ppu}
    (hrest : ¬ ((p.scanline ≤ 239 ∨ p.scanline = 261) ∧ 65 ≤ p.cycle ∧ p.cycle ≤ 257)) :
    (spriteDot p).eval = p.eval := by
  by_cases hline : p.scanline ≤ 239 ∨ p.scanline = 261
  · rw [spriteDot_of_fetch_line hline]
    split
    next => unfold secOamClear; split <;> rfl
    next =>
      rw [if_neg (by omega), if_neg (by omega)]
      split
      next =>
        obtain ⟨b, hfetch⟩ := fetchSlot_frame ((p.cycle - 264) / 8) p
        rw [hfetch]
      next => rfl
  · rw [spriteDot_of_idle_line hline]

/-! ### PPUSTATUS after a dot -/

/-- Below bit 7 the timing engine changes PPUSTATUS only by the pre-render clear (rules R408, R410). -/
theorem timingDot_status_getLsbD (s : State) {i : Nat} (hi : i < 7) :
    (timingDot s).ppu.status.getLsbD i =
      (s.ppu.status.getLsbD i && !decide (s.ppu.scanline = 261 ∧ s.ppu.cycle = 1)) := by
  by_cases hclear : s.ppu.scanline = 261 ∧ s.ppu.cycle = 1
  · rw [timingDot_preRenderClear hclear.1 hclear.2, decide_eq_true hclear, Bool.not_true, Bool.and_false]
    exact BitVec.getLsbD_zero
  · rw [decide_eq_false hclear, Bool.not_false, Bool.and_true]
    rcases timingDot_cases s with ⟨v, q, h⟩ | ⟨h, -, -⟩ | ⟨-, hline, hcycle⟩
    · rw [h]; rfl
    · have hbit : (0x80 : Byte).getLsbD i = false := by interval_cases i <;> rfl
      have hstatus : (timingDot s).ppu.status = s.ppu.status ||| 0x80 := by rw [h]; rfl
      rw [hstatus, BitVec.getLsbD_or, hbit, Bool.or_false]
    · exact absurd ⟨hline, hcycle⟩ hclear

theorem ppuTick_status_getLsbD (s : State) {i : Nat} (hi : i < 7) :
    (ppuTick s).ppu.status.getLsbD i =
      ((spriteDot (spriteInput s)).status.getLsbD i && !decide (s.ppu.scanline = 261 ∧ s.ppu.cycle = 1)) := by
  have hpos := pictureDot_samePosition s
  have hadvance : (ppuTick s).ppu.status = (timingDot (pictureDot s)).ppu.status := by
    obtain ⟨c, sl, ef, h⟩ := advanceDot_frame (timingDot (pictureDot s)).ppu
    rw [ppuTick_eq, State.setPpu_ppu, h]
  rw [hadvance, timingDot_status_getLsbD _ hi, hpos.scanline, hpos.cycle, pictureDot_ppu]

theorem spriteInput_status (s : State) :
    (spriteInput s).status = (compositorDot (s.setPpu (fineXDiscard s.ppu))).ppu.status := by
  obtain ⟨nt, ab, lo, hi, q, v, h⟩ := backgroundDot_frame (compositorDot (s.setPpu (fineXDiscard s.ppu))).ppu
  rw [spriteInput, h]

/-- No pixel and no fetch touches the overflow bit. -/
theorem spriteInput_overflow (s : State) : (spriteInput s).status.getLsbD 5 = s.ppu.status.getLsbD 5 := by
  obtain ⟨q, hdiscard⟩ := fineXDiscard_frame s.ppu
  obtain ⟨q', st, ev, hpixel, hst⟩ := compositorDot_frame (s.setPpu (fineXDiscard s.ppu))
  rw [State.setPpu_ppu, hdiscard] at hst
  rw [spriteInput_status, hpixel]
  rcases hst with rfl | rfl
  · rfl
  · exact BitVec.getLsbD_or.trans (Bool.or_false _)

/-- A dot sets the overflow bit only by finding an overflow. -/
theorem findsOverflow_of_ppuTick {s : State} (hclear : s.ppu.status.getLsbD 5 = false)
    (hset : (ppuTick s).ppu.status.getLsbD 5 = true) : (spriteInput s).FindsOverflow := by
  refine (spriteDot_status (spriteInput s)).resolve_left fun hsame => ?_
  rw [ppuTick_status_getLsbD s (by decide), hsame, spriteInput_overflow, hclear] at hset
  exact Bool.false_ne_true hset

/-- Settles O35: one rule for each kind of evaluation dot, the latch of cycle 257, and the rest of the dots. -/
theorem overflowFlagSource : Obligations.OverflowFlagSource := by
  refine ⟨fun s hclear hset => ?source, fun s => ?dots⟩
  case source =>
    have hfound := findsOverflow_of_ppuTick hclear hset
    have hsame := spriteInput_sameSprites s
    rw [Ppu.FindsOverflow, Ppu.inRange_iff, hsame.position.scanline, hsame.position.cycle, hsame.eval,
      hsame.ports.ctrl] at hfound
    exact hfound
  case dots =>
    have hsame := spriteInput_sameSprites s
    obtain ⟨hsec, hbuf, heval⟩ := ppuTick_sprites s
    have hstatus := ppuTick_status_getLsbD s (i := 5) (by decide)
    dsimp only
    -- Said of the picture unit the sprite unit finds, the clauses are about `spriteDot` alone.
    rw [← hsame.position.scanline, ← hsame.position.cycle] at hstatus
    unfold Ppu.secOamRead Ppu.spriteAt
    rw [hsec, hbuf, heval, hstatus, ← hsame.eval, ← hsame.position.scanline, ← hsame.position.cycle, ← hsame.secOam,
      ← hsame.ports.ctrl, ← hsame.ports.oam]
    clear hsame hsec hbuf heval hstatus
    generalize spriteInput s = p
    rw [← p.inRange_iff]
    refine ⟨fun hline hlo hhi => ?evaluation, fun hline hcycle => ?latch, fun hrest => ?rest⟩
    case evaluation =>
      rw [spriteDot_eval hline hlo hhi]
      refine ⟨fun hstart => ?start, fun hstart hodd => ?read, fun heven hmode hrange => ?found,
        fun heven hmode hrange => ?passed, fun heven hmode hmore => ?copied, fun heven hmode hlast => ?copiedLast,
        fun heven hmode hrange => ?overflowed, fun heven hmode hrange => ?overflowPassed, fun heven hmode => ?done⟩
      case start =>
        rw [evalDot_start hstart]
        exact ⟨rfl, rfl⟩
      case read =>
        rw [evalDot_read hstart hodd]
        exact ⟨rfl, rfl⟩
      case found =>
        have hindex : decide (p.eval.n.toNat = 0) = decide (p.eval.n = 0) :=
          decide_eq_decide.mpr (BitVec.toNat_inj (y := 0))
        rw [evalDot_act heven, evalAct_found hmode hrange]
        exact ⟨fun k => Cells.read_write _ _ _ k _, by rw [hindex]⟩
      case passed =>
        rw [evalDot_act heven, evalAct_passed hmode hrange, nextSprite_eq]
        exact ⟨rfl, rfl⟩
      case copied =>
        rw [evalDot_act heven, evalAct_copied hmode hmore]
        exact ⟨fun k => Cells.read_write _ _ _ k _, rfl⟩
      case copiedLast =>
        have hend : ¬ p.eval.m < 3 := by bv_omega
        rw [evalDot_act heven, evalAct_copiedLast hmode hend, hlast, nextSprite_eq]
        exact ⟨fun k => Cells.read_write _ _ _ k _, rfl⟩
      case overflowed =>
        have hclear : ¬ (p.scanline = 261 ∧ p.cycle = 1) := by omega
        rw [evalDot_act heven, evalAct_overflowed hmode hrange, decide_eq_false hclear, BitVec.getLsbD_or]
        exact ⟨rfl, (Bool.and_true _).trans (Bool.or_true _), rfl⟩
      case overflowPassed =>
        rw [evalDot_act heven, evalAct_overflowPassed hmode hrange]
        exact ⟨rfl, rfl⟩
      case done =>
        rw [evalDot_act heven, evalAct_done hmode]
        exact ⟨rfl, rfl⟩
    case latch =>
      rw [spriteDot_latch hline hcycle]
      exact ⟨rfl, rfl, fun _ => rfl⟩
    case rest => exact spriteDot_eval_eq_self hrest

end Sys2Proof.Machine

/-! The statement about the sprite fetch (spec/48_ppu_sprites.md): one pixel over one column, a row of pixels that each meet the
entry of their own column, and the pixel of a slot in integers. -/

namespace Sys2Proof.Machine

/-! ### Putting sprite pixels into the buffer -/

/-- The entry a column holds after a pixel is put at it (rule R495). -/
def SpritePixel.over (pix old : SpritePixel) (col : Nat) : SpritePixel :=
  if col ≤ 255 ∧ pix.color ≠ 0 ∧ old.color = 0 then pix else old

theorem putSpritePixel_read (pix : SpritePixel) (col c : Nat) (buf : Cells SpritePixel) :
    Cells.read SpritePixel.unwritten (putSpritePixel pix col buf) c =
      if c = col then pix.over (Cells.read SpritePixel.unwritten buf c) col
      else Cells.read SpritePixel.unwritten buf c := by
  unfold putSpritePixel SpritePixel.over
  by_cases hc : c = col
  · subst hc
    rw [if_pos rfl]
    split
    · rw [Cells.read_write, if_pos rfl]
    · rfl
  · rw [if_neg hc]
    split
    · rw [Cells.read_write, if_neg hc]
    · rfl

theorem SpritePixel.over_of_written {pix old : SpritePixel} (col : Nat) (h : old.color ≠ 0) : pix.over old col = old :=
  if_neg fun ⟨_, _, hfree⟩ => h hfree

theorem SpritePixel.over_outside {pix old : SpritePixel} {col : Nat} (h : 255 < col) : pix.over old col = old :=
  if_neg fun ⟨hinside, _⟩ => absurd hinside (by omega)

/-- Pixels `js` of a row put into the buffer from column `x` on, in order (rule R495). -/
def putSpriteRow (pixel : Nat → SpritePixel) (x : Nat) (js : List Nat) (buf : Cells SpritePixel) : Cells SpritePixel :=
  js.foldl (fun b j => putSpritePixel (pixel j) (x + j) b) buf

theorem putSpriteRow_read_other (pixel : Nat → SpritePixel) (x c : Nat) (js : List Nat) (hc : ∀ j ∈ js, c ≠ x + j) :
    ∀ buf : Cells SpritePixel, Cells.read SpritePixel.unwritten (putSpriteRow pixel x js buf) c =
      Cells.read SpritePixel.unwritten buf c := by
  induction js with
  | nil => exact fun buf => rfl
  | cons i js ih =>
    intro buf
    obtain ⟨hi, hjs⟩ := List.forall_mem_cons.mp hc
    exact (ih hjs _).trans ((putSpritePixel_read _ _ _ _).trans (if_neg hi))

/-- Each pixel of a row meets the entry that stood in its own column, whatever the others did. -/
theorem putSpriteRow_read (pixel : Nat → SpritePixel) (x : Nat) {j : Nat} (js : List Nat) (hnodup : js.Nodup)
    (hj : j ∈ js) :
    ∀ buf : Cells SpritePixel, Cells.read SpritePixel.unwritten (putSpriteRow pixel x js buf) (x + j) =
      (pixel j).over (Cells.read SpritePixel.unwritten buf (x + j)) (x + j) := by
  induction js with
  | nil => exact absurd hj List.not_mem_nil
  | cons i js ih =>
    intro buf
    obtain ⟨hi, hjs⟩ := List.nodup_cons.mp hnodup
    have hstep : putSpriteRow pixel x (i :: js) buf =
      putSpriteRow pixel x js (putSpritePixel (pixel i) (x + i) buf) := rfl
    rw [hstep]
    by_cases hij : j = i
    · subst hij
      have hother : ∀ k ∈ js, x + j ≠ x + k := fun k hk heq => hi (Nat.add_left_cancel heq ▸ hk)
      rw [putSpriteRow_read_other _ _ _ _ hother, putSpritePixel_read, if_pos rfl]
    · rw [ih hjs ((List.mem_cons.mp hj).resolve_left hij), putSpritePixel_read, if_neg (by omega)]

/-! ### The sprite of a slot -/

/-- Pixel `j` of the sprite in slot `k` (rule R495). -/
def Ppu.slotPixel (p : Ppu) (k j : Nat) : SpritePixel :=
  let attr := p.secOamRead (4 * k + 2)
  let addr := p.spriteAddr (p.secOamRead (4 * k + 1)) (p.spriteRow (p.secOamRead (4 * k)) attr)
  { color := spriteColor (bitOf attr 6) (p.read addr) (p.read (addr + 8)) j, palette := attr.setWidth 2,
    sprite0 := decide (k = 0) && p.eval.fetchSprite0, priority := bitOf attr 5 }

theorem fetchSlot_eq {k : Nat} {p : Ppu} (hk : k < p.eval.fetchCount) :
    fetchSlot k p = { p with
      spriteBuf := putSpriteRow (p.slotPixel k) (p.secOamRead (4 * k + 3)).toNat [0, 1, 2, 3, 4, 5, 6, 7]
        p.spriteBuf } :=
  if_pos hk

theorem fetchSlot_past {k : Nat} {p : Ppu} (hk : p.eval.fetchCount ≤ k) : fetchSlot k p = p :=
  if_neg (by omega)

/-- A column of the fetched sprite gets its pixel over what stood there (rule R495). -/
theorem fetchSlot_spriteAt {k j : Nat} {p : Ppu} (hk : k < p.eval.fetchCount) (hj : j < 8) :
    let col := (p.secOamRead (4 * k + 3)).toNat + j
    (fetchSlot k p).spriteAt col = (p.slotPixel k j).over (p.spriteAt col) col := by
  have hmem : j ∈ [0, 1, 2, 3, 4, 5, 6, 7] := List.mem_range.mpr hj
  rw [fetchSlot_eq hk]
  exact putSpriteRow_read _ _ _ (by decide) hmem _

/-- A column outside the eight of the sprite stays (rule R495). -/
theorem fetchSlot_spriteAt_other (k : Nat) (p : Ppu) {col : Nat}
    (hcol : col < (p.secOamRead (4 * k + 3)).toNat ∨ (p.secOamRead (4 * k + 3)).toNat + 7 < col) :
    (fetchSlot k p).spriteAt col = p.spriteAt col := by
  by_cases hk : k < p.eval.fetchCount
  · have hother : ∀ j ∈ [0, 1, 2, 3, 4, 5, 6, 7], col ≠ (p.secOamRead (4 * k + 3)).toNat + j := by
      intro j hj
      have hlt : j < 8 := List.mem_range.mp hj
      omega
    rw [fetchSlot_eq hk]
    exact putSpriteRow_read_other _ _ _ _ hother _
  · rw [fetchSlot_past (by omega)]

/-- Every column keeps its entry or gets a pixel over it (rule R495). -/
theorem fetchSlot_spriteAt_cases (k : Nat) (p : Ppu) (col : Nat) :
    (fetchSlot k p).spriteAt col = p.spriteAt col ∨
      ∃ pix : SpritePixel, (fetchSlot k p).spriteAt col = pix.over (p.spriteAt col) col := by
  by_cases hk : k < p.eval.fetchCount
  · by_cases hcol : col < (p.secOamRead (4 * k + 3)).toNat ∨ (p.secOamRead (4 * k + 3)).toNat + 7 < col
    · exact .inl (fetchSlot_spriteAt_other k p hcol)
    · obtain ⟨j, rfl⟩ : ∃ j, col = (p.secOamRead (4 * k + 3)).toNat + j := Nat.exists_eq_add_of_le (by omega)
      exact .inr ⟨_, fetchSlot_spriteAt hk (by omega)⟩
  · exact .inl (by rw [fetchSlot_past (by omega)])

theorem SameSprites.slotPixel {p q : Ppu} (h : SameSprites p q) (k : Nat) : q.slotPixel k = p.slotPixel k := by
  funext j
  have hread : q.read = p.read := by
    funext a
    rw [Ppu.read, h.ports.mem, h.ports.mirroring]
    rfl
  unfold Ppu.slotPixel Ppu.spriteAddr Ppu.spriteRow Ppu.spriteHeight Ppu.tallSprites Ppu.spriteTable
  rw [hread, h.secOamRead, h.ports.ctrl, h.position.scanline, h.eval]

/-- A sprite fetch does not depend on what the background leaves behind. -/
theorem SameSprites.fetchSlot {p q : Ppu} (h : SameSprites p q) (k : Nat) :
    (fetchSlot k q).spriteBuf = (fetchSlot k p).spriteBuf := by
  by_cases hk : k < p.eval.fetchCount
  · rw [fetchSlot_eq hk, fetchSlot_eq (h.eval ▸ hk), h.slotPixel, h.secOamRead, h.spriteBuf]
  · rw [fetchSlot_past (p := p) (by omega), fetchSlot_past (h.eval ▸ Nat.le_of_not_lt hk), h.spriteBuf]

/-! ### The pixel of a slot in integers -/

theorem Ppu.spriteRow_eq (p : Ppu) (y attr : Byte) :
    let h : Nat := if p.ctrl.getLsbD 5 then 16 else 8
    let above : Nat := (((p.scanline : Int) - (y.toNat : Int)) % (h : Int)).toNat
    p.spriteRow y attr = if attr.getLsbD 7 then h - 1 - above else above := rfl

theorem Ppu.spriteRow_lt (p : Ppu) (y attr : Byte) : p.spriteRow y attr < if p.ctrl.getLsbD 5 then 16 else 8 := by
  have hheight : p.spriteHeight = if p.ctrl.getLsbD 5 then 16 else 8 := rfl
  have hpos : 0 < p.spriteHeight := by rw [hheight]; split <;> decide
  have hmod := Int.emod_lt_of_pos ((p.scanline : Int) - y.toNat) (Int.natCast_pos.mpr hpos)
  rw [← hheight]
  unfold Ppu.spriteRow
  dsimp only
  split <;> omega

theorem Ppu.spriteAddr_eq (p : Ppu) (tile : Byte) {row : Nat} (hrow : row < if p.ctrl.getLsbD 5 then 16 else 8) :
    p.spriteAddr tile row = BitVec.ofNat 16
      (if p.ctrl.getLsbD 5 then tile.toNat % 2 * 0x1000 + (tile.toNat / 2 * 2 + row / 8) * 16 + row % 8
        else (if p.ctrl.getLsbD 3 then 0x1000 else 0) + tile.toNat * 16 + row) := by
  have htall : p.tallSprites = p.ctrl.getLsbD 5 := rfl
  have hbyte := tile.isLt
  unfold Ppu.spriteAddr
  rw [htall]
  split
  next hset =>
    rw [if_pos hset] at hrow
    have heven : ∀ b : Byte, (b &&& 0xFE).toNat = b.toNat / 2 * 2 := by decide
    have htable : (if bitOf tile 0 then 0x1000 else 0x0000 : Word) =
        BitVec.ofNat 16 (if bitOf tile 0 then 0x1000 else 0) := by split <;> rfl
    have hbit : ∀ b : Byte, (if bitOf b 0 then 0x1000 else 0) = b.toNat % 2 * 0x1000 := by decide
    rw [htable, heven, patternFields_eq _ (by omega) (by omega), hbit]
  next hclear =>
    rw [if_neg hclear] at hrow
    rw [byte_shiftLeft_four]
    exact patternFields_eq p.spriteTable hbyte (by omega)

theorem spriteColor_eq (flip : Bool) (lo hi : Byte) (j : Nat) :
    let b : Nat := if flip then j else 7 - j
    spriteColor flip lo hi j = BitVec.ofNat 2 (2 * (hi.getLsbD b).toNat + (lo.getLsbD b).toNat) := by
  have hall : ∀ h l : Bool, bit1 h ++ bit1 l = BitVec.ofNat 2 (2 * h.toNat + l.toNat) := by decide
  exact hall _ _

/-- The pixel of a slot from the bytes of secondary OAM and of the pattern, in integers (rules R491, R495, R496). -/
theorem Ppu.slotPixel_eq (p : Ppu) (k j : Nat) :
    let y := (p.secOamRead (4 * k)).toNat
    let tile : Nat := (p.secOamRead (4 * k + 1)).toNat
    let attr := p.secOamRead (4 * k + 2)
    let h : Nat := if p.ctrl.getLsbD 5 then 16 else 8
    let above : Nat := (((p.scanline : Int) - (y : Int)) % (h : Int)).toNat
    let row : Nat := if attr.getLsbD 7 then h - 1 - above else above
    let addr : Nat :=
      if p.ctrl.getLsbD 5 then tile % 2 * 0x1000 + (tile / 2 * 2 + row / 8) * 16 + row % 8
      else (if p.ctrl.getLsbD 3 then 0x1000 else 0) + tile * 16 + row
    let b : Nat := if attr.getLsbD 6 then j else 7 - j
    p.slotPixel k j =
      { color := BitVec.ofNat 2 (2 * ((p.read (BitVec.ofNat 16 (addr + 8))).getLsbD b).toNat +
          ((p.read (BitVec.ofNat 16 addr)).getLsbD b).toNat)
        palette := BitVec.ofNat 2 (attr.toNat % 4), sprite0 := decide (k = 0) && p.eval.fetchSprite0
        priority := attr.getLsbD 5 } := by
  have hpalette : ∀ b : Byte, (b.setWidth 2 : BitVec 2) = BitVec.ofNat 2 (b.toNat % 4) := by decide
  have hhigh : ∀ row : Nat, (BitVec.ofNat 16 row + 8 : Word) = BitVec.ofNat 16 (row + 8) := fun row =>
    (BitVec.ofNat_add row 8).symm
  dsimp only
  rw [← Ppu.spriteRow_eq, ← hhigh, ← p.spriteAddr_eq _ (p.spriteRow_lt _ _), ← hpalette, ← spriteColor_eq]
  rfl

/-- Two bits make an opaque colour when one of them is set (rule R495). -/
theorem spriteColor_ne_zero_iff (hi lo : Bool) :
    BitVec.ofNat 2 (2 * hi.toNat + lo.toNat) ≠ 0 ↔ 2 * hi.toNat + lo.toNat ≠ 0 := by
  decide +revert

/-! ### The dots that write the buffer -/

theorem evalDot_spriteBuf (p : Ppu) : (evalDot p).spriteBuf = p.spriteBuf := by
  by_cases heven : p.cycle % 2 = 0
  · obtain ⟨m, e, st, h, -⟩ := evalAct_frame p
    rw [evalDot_act heven, h]
  · by_cases hstart : p.cycle = 65
    · rw [evalDot_start hstart]
    · rw [evalDot_read hstart (by omega)]
      rfl

/-- But for the clear and the fetches no dot of the sprite unit writes the buffer (rules R470, R490, R491). -/
theorem spriteDot_spriteBuf_eq_self {p : Ppu}
    (hrest : (239 < p.scanline ∧ p.scanline ≠ 261) ∨
      p.cycle ≠ 257 ∧ ¬ (264 ≤ p.cycle ∧ p.cycle ≤ 320 ∧ p.cycle % 8 = 0)) :
    (spriteDot p).spriteBuf = p.spriteBuf := by
  by_cases hline : p.scanline ≤ 239 ∨ p.scanline = 261
  · rw [spriteDot_of_fetch_line hline]
    split
    next => unfold secOamClear; split <;> rfl
    split
    next => exact evalDot_spriteBuf p
    next => rw [if_neg (by omega), if_neg (by omega)]
  · rw [spriteDot_of_idle_line hline]

/-- Settles O36: the rule of one pixel over one column, the pixel of a slot in integers, and the dots that fetch. -/
theorem spriteFetchKeepsWrittenColumns : Obligations.SpriteFetchKeepsWrittenColumns := by
  refine ⟨fun k p => ⟨fetchSlot_past, ?frame, fun col hwritten => ?written, fun col hout => ?outside⟩,
    fun k j p hk hj hcol => ?pixel, fun s => ⟨fun k hk hline hcycle => ?fetch, fun hrest => ?rest⟩⟩
  case frame =>
    obtain ⟨b, h⟩ := fetchSlot_frame k p
    rw [h]
  case written =>
    rcases fetchSlot_spriteAt_cases k p col with h | ⟨pix, h⟩
    · exact h
    · rw [h, SpritePixel.over_of_written col hwritten]
  case outside =>
    rw [← or_assoc] at hout
    rcases hout with hout | hout
    · exact fetchSlot_spriteAt_other k p hout
    · rcases fetchSlot_spriteAt_cases k p col with h | ⟨pix, h⟩
      · exact h
      · rw [h, SpritePixel.over_outside hout]
  case pixel =>
    dsimp only
    rw [fetchSlot_spriteAt hk hj, p.slotPixel_eq, SpritePixel.over]
    simp only [hcol, true_and, spriteColor_ne_zero_iff]
  case fetch =>
    have hsame := spriteInput_sameSprites s
    obtain ⟨-, hbuf, -⟩ := ppuTick_sprites s
    rw [← hsame.position.scanline] at hline
    rw [← hsame.position.cycle] at hcycle
    rw [hbuf, spriteDot_fetch hline hk hcycle, hsame.fetchSlot]
  case rest =>
    have hsame := spriteInput_sameSprites s
    obtain ⟨-, hbuf, -⟩ := ppuTick_sprites s
    rw [← hsame.position.scanline, ← hsame.position.cycle] at hrest
    rw [hbuf, spriteDot_spriteBuf_eq_self hrest, hsame.spriteBuf]

end Sys2Proof.Machine

/-! The statement about the compositor (spec/49_ppu_compositor.md): one composed pixel in integers, and what a whole dot leaves
of it in the sprite-0 bit and in the queue. -/

namespace Sys2Proof.Machine

/-! ### One composed pixel -/

theorem sprite0Hit_iff (bg : Nibble) (spOpaque : Bool) (e : SpritePixel) :
    sprite0Hit bg spOpaque e = true ↔ bg.toNat ≠ 0 ∧ spOpaque = true ∧ e.sprite0 = true := by
  have hzero : bg.toNat = 0 ↔ bg = 0 := BitVec.toNat_inj (y := 0)
  rw [sprite0Hit, Bool.and_eq_true, Bool.and_eq_true, decide_eq_true_eq, and_assoc, ne_eq, ne_eq, hzero]

/-- A pixel raises the sprite-0 bit exactly at a hit, and changes no other bit of PPUSTATUS (rule R525). -/
theorem composePixel_status_getLsbD (col : Nat) (s : State) (i : Nat) :
    let p := s.ppu
    let e := p.spriteAt col
    let bg := if p.mask.getLsbD 3 = true ∧ ¬ (col < 8 ∧ p.mask.getLsbD 1 = false) then (p.bgQueue.headD 0).toNat else 0
    let sp := e.color ≠ 0 ∧ p.mask.getLsbD 4 = true ∧ ¬ (col < 8 ∧ p.mask.getLsbD 2 = false)
    (composePixel col s).ppu.status.getLsbD i =
      (p.status.getLsbD i || decide (i = 6 ∧ bg ≠ 0 ∧ sp ∧ e.sprite0 = true)) := by
  have hit := sprite0Hit_iff (s.ppu.bgValue col (s.ppu.bgQueue.headD 0))
    (s.ppu.spriteOpaque col (s.ppu.spriteAt col)) (s.ppu.spriteAt col)
  simp only [Ppu.spriteOpaque_iff, Ppu.bgValue_toNat] at hit
  have hbit : (0x40 : Byte).getLsbD i = decide (i = 6) := by
    rcases lt_or_ge i 8 with hi | hi
    · interval_cases i <;> rfl
    · rw [BitVec.getLsbD_of_ge _ _ hi, decide_eq_false (by omega)]
  simp only [← hit, Bool.decide_and, ← hbit]
  unfold composePixel
  dsimp only
  split
  next h => rw [decide_eq_true h, BitVec.getLsbD_or, Bool.and_true]
  next h => rw [decide_eq_false h, Bool.and_false, Bool.or_false]

/-! ### What a dot leaves of its pixel -/

/-- The sprite unit leaves the sprite-0 bit alone. -/
theorem spriteDot_sprite0Bit (p : Ppu) : (spriteDot p).status.getLsbD 6 = p.status.getLsbD 6 := by
  obtain ⟨m, b, e, st, h, hst⟩ := spriteDot_frame p
  rw [h]
  rcases hst with rfl | rfl
  · rfl
  · exact BitVec.getLsbD_or.trans (Bool.or_false _)

/-- The sprite-0 bit after a dot is the compositor's, but for the pre-render clear (rules R410, R525). -/
theorem ppuTick_sprite0Bit (s : State) :
    (ppuTick s).ppu.status.getLsbD 6 =
      ((compositorDot (s.setPpu (fineXDiscard s.ppu))).ppu.status.getLsbD 6 &&
        !decide (s.ppu.scanline = 261 ∧ s.ppu.cycle = 1)) := by
  rw [ppuTick_status_getLsbD s (by decide), spriteDot_sprite0Bit, spriteInput_status]

/-- The queue after a dot is the fetcher's, but at the end of a fetch line (rule R452). -/
theorem ppuTick_bgQueue (s : State) :
    (ppuTick s).ppu.bgQueue =
      if (s.ppu.scanline ≤ 239 ∨ s.ppu.scanline = 261) ∧ s.ppu.cycle = 256 then []
      else (backgroundDot (compositorDot (s.setPpu (fineXDiscard s.ppu))).ppu).bgQueue := by
  have hpos := pictureDot_samePosition s
  have hadvance : (ppuTick s).ppu.bgQueue = (timingDot (pictureDot s)).ppu.bgQueue := by
    obtain ⟨c, sl, ef, h⟩ := advanceDot_frame (timingDot (pictureDot s)).ppu
    rw [ppuTick_eq, State.setPpu_ppu, h]
  rw [hadvance, timingDot_bgQueue, hpos.onFetchLine, hpos.cycle, pictureDot_ppu, spriteDot_bgQueue, spriteInput]
  simp only [Ppu.onFetchLine_iff]

/-- The pixel of a visible dot, from the queue after the discard (rules R442, R520). -/
theorem compositorDot_fineXDiscard_of_visible {s : State} (hline : s.ppu.scanline ≤ 239) (hlo : 1 ≤ s.ppu.cycle)
    (hhi : s.ppu.cycle ≤ 256) :
    compositorDot (s.setPpu (fineXDiscard s.ppu)) = composePixel (s.ppu.cycle - 1) (s.setPpu { s.ppu with
      bgQueue := if s.ppu.cycle = 1 then s.ppu.bgQueue.drop s.ppu.fineX.toNat else s.ppu.bgQueue }) := by
  rw [fineXDiscard_of_visible hline]
  exact compositorDot_of_visible hline hlo hhi

/-- Settles O37: the pixel's address and the hit in integers; in a dot, the discard comes before the pixel, the fetch after
it, and the clear of the queue last. -/
theorem compositorPriorityTable : Obligations.CompositorPriorityTable := by
  refine ⟨fun s col => ?pixel, fun s => ⟨fun hline hlo hhi => ?visible, fun hhidden => ?hidden⟩⟩
  case pixel =>
    intro p e bg sp addrBg addrSp u
    have hevents : u.events = .drawPixel col p.scanline (p.read (BitVec.ofNat 16
        (if sp ∧ (bg = 0 ∨ e.priority = false) then 0x3F10 + 4 * e.palette.toNat + e.color.toNat else 0x3F00 + bg)))
        p.mask :: s.events := composePixel_events col s
    rw [hevents]
    refine ⟨fun hbg hsp => ?backdrop, fun hbg hsp => ?spriteAlone, fun hbg hsp => ?backgroundAlone,
      fun hbg hsp hfront => ?spriteInFront, fun hbg hsp hbehind => ?spriteBehind,
      composePixel_status_getLsbD col s, rfl⟩
    case backdrop => rw [if_neg fun ⟨hopaque, _⟩ => hsp hopaque, hbg]; rfl
    case spriteAlone => rw [if_pos ⟨hsp, .inl hbg⟩]
    case backgroundAlone => rw [if_neg fun ⟨hopaque, _⟩ => hsp hopaque]
    case spriteInFront => rw [if_pos ⟨hsp, .inr hfront⟩]
    case spriteBehind =>
      rw [if_neg fun ⟨_, hshown⟩ => hshown.elim hbg fun hfront => Bool.false_ne_true (hfront.symm.trans hbehind)]
  case visible =>
    have hpixel := compositorDot_fineXDiscard_of_visible hline hlo hhi
    refine ⟨?events, ?hit, ?queue⟩
    case events => rw [ppuTick_events, if_neg (by omega), hpixel]; rfl
    case hit =>
      rw [ppuTick_sprite0Bit, hpixel, decide_eq_false (by omega), Bool.not_false, Bool.and_true]
      rfl
    case queue =>
      rw [ppuTick_bgQueue, hpixel]
      simp only [hline, true_or, true_and]
      rfl
  case hidden =>
    have hpixel : compositorDot (s.setPpu (fineXDiscard s.ppu)) = s := by
      rw [fineXDiscard_eq_self (by omega)]
      exact compositorDot_eq_self hhidden
    refine ⟨fun hset => ?hit, ?queue⟩
    case hit =>
      rw [ppuTick_sprite0Bit, hpixel] at hset
      exact Bool.and_elim_left hset
    case queue =>
      have hend : (s.ppu.scanline ≤ 239 ∨ s.ppu.scanline = 261) ∧ s.ppu.cycle = 256 ↔
          s.ppu.scanline = 261 ∧ s.ppu.cycle = 256 := by omega
      rw [ppuTick_bgQueue, hpixel]
      simp only [hend]

end Sys2Proof.Machine
